-- ==== Sys2Proof/Word.lean ====
section
/-! DEFINITION. The bytes and register words of the block (spec/00_scope.md R9, R10). -/

namespace Sys2Proof

/-- A byte of a byte string: a number in 0..255 (R9). -/
abbrev Byte := BitVec 8

/-- A 32-bit register word of the CSR window; bit 0 is the least significant (R10). -/
abbrev Word := BitVec 32

/-- `zeros(n)`: the string of n zero bytes (R9), as a fixed-length register. -/
abbrev zeros (n : Nat) : Vector Byte n := Vector.replicate n 0

end Sys2Proof
end

