-- ==== Sys2Proof/Config.lean ====
section
/-! DEFINITION. The implementation parameters (spec/00_scope.md R7), the open choices of one implementation, and the two
external primitives KS and MAC (R6), which the model takes as uninterpreted constants. -/

namespace Sys2Proof.Config

/-- PROFILE (R7, D6): the nonce profile one implementation is built with. -/
inductive Profile where
  | canon12
  | draft16
  deriving DecidableEq, Repr, Inhabited

/-- KEY_LEN (R7): the accepted key length in bytes. -/
def keyLen : Nat := 32

/-- TAG_LEN (R7): the tag length in bytes. -/
def tagLen : Nat := 16

/-- ROUNDS (R7): the only accepted round count. -/
def rounds : Nat := 20

/-- KS_BLOCK (R7): keystream bytes per block counter value. PRESUMED (the spec's own general knowledge, GK2; log 18); it
enters only the bound on MSG_CAP. -/
def ksBlock : Nat := 64

/-- The parameters R7 leaves to the implementation. A model takes each as an argument; here they are the field `params` of
State, which no step writes (log 1). -/
structure Params where
  /-- PROFILE. -/
  profile : Profile
  /-- CTR_W under DRAFT16: true for 64 bits, false for 32 (D7 leaves it open). -/
  draftCtr64 : Bool
  /-- MSG_CAP: message buffer capacity in bytes. -/
  msgCap : Nat
  /-- AD_CAP: associated-data capacity in bytes. -/
  adCap : Nat
  /-- HMEM_SIZE: size in bytes of the host memory the block can reach. -/
  hmemSize : Nat
  deriving DecidableEq, Repr

/-- NONCE_LEN (R7): 12 if CANON12, 16 if DRAFT16. -/
def Params.nonceLen (p : Params) : Nat :=
  match p.profile with
  | .canon12 => 12
  | .draft16 => 16

/-- CTR_W (R7, D7): 32 for CANON12 (PRESUMED, GK1; log 18); for DRAFT16 the open choice. -/
def Params.ctrW (p : Params) : Nat :=
  match p.profile with
  | .canon12 => 32
  | .draft16 => if p.draftCtr64 then 64 else 32

/-- The upper bound of MSG_CAP (R7, R8): min(2^64 - 1, KS_BLOCK * (2^CTR_W - 1)). -/
def Params.msgCapBound (p : Params) : Nat := min (2 ^ 64 - 1) (ksBlock * (2 ^ p.ctrW - 1))

/-- The upper bound of AD_CAP (R7). -/
def adCapBound : Nat := 2 ^ 64 - 1

/-- The upper bound of HMEM_SIZE (R7, R70). -/
def hmemSizeBound : Nat := 2 ^ 32

/-- Free value: the profile of the implementation that comes out of reset (log 2). -/
opaque profileChoice : Profile

/-- Free value: whether a DRAFT16 implementation has a 64-bit block counter (log 2). -/
opaque draftCtr64Choice : Bool

/-- Free value behind MSG_CAP (log 2). -/
opaque msgCapChoice : Nat

/-- Free value behind AD_CAP (log 2). -/
opaque adCapChoice : Nat

/-- Free value behind HMEM_SIZE (log 2). -/
opaque hmemSizeChoice : Nat

/-- The profile parameters of the implementation, before its capacities are fixed. -/
def profileParams : Params :=
  { profile := profileChoice, draftCtr64 := draftCtr64Choice, msgCap := 0, adCap := 0, hmemSize := 1 }

/-- The parameters of the implementation that comes out of reset: each is free within the range R7 gives it, and every value
of that range is the value for some choice (log 2). -/
def implementation : Params :=
  { profileParams with
    msgCap := min msgCapChoice profileParams.msgCapBound
    adCap := min adCapChoice adCapBound
    hmemSize := 1 + hmemSizeChoice % hmemSizeBound }

/-- Free value: byte `i` of the keystream for (key, nonce) that starts at block counter `ctr` (R6; log 3). -/
opaque keystreamByte (key : Vector Byte 32) (nonce : List Byte) (ctr i : Nat) : Byte

/-- KS (R6): the first `n` bytes of the keystream for (key, nonce) that starts at block counter `ctr`. -/
def KS (key : Vector Byte 32) (nonce : List Byte) (ctr n : Nat) : Vector Byte n :=
  Vector.ofFn fun i => keystreamByte key nonce ctr i

/-- Free value: MAC (R6), the one-time authenticator, total on messages of any length (log 4). -/
opaque MAC (macKey : Vector Byte 32) (message : List Byte) : Vector Byte 16

end Sys2Proof.Config
end

