-- ==== Sys2Proof/Machine/Bus.lean ====
section
/-! DEFINITION. What the outside world does to the block: CSR accesses, host stores into host memory, assertion of the block's
reset (spec/10_state.md R43 to R45, spec/20_memory.md R84, spec/70_reset_and_hazards.md R280). -/

namespace Sys2Proof.Machine

/-- The direction of a CSR access, with the word a write carries. -/
inductive CsrDir where
  | read
  | write (w : Word)
  deriving DecidableEq, Repr

/-- One access to the CSR window: direction, byte offset from the window base, width in bytes. Widths and offsets that R45
excludes can be written down, so that the machine can refuse them. -/
structure CsrAccess where
  dir : CsrDir
  offset : Nat
  size : Nat
  deriving DecidableEq, Repr

/-- A 32-bit CSR read at an offset. -/
abbrev CsrAccess.readAt (offset : Nat) : CsrAccess := { dir := .read, offset := offset, size := 4 }

/-- A 32-bit CSR write at an offset. -/
abbrev CsrAccess.writeAt (offset : Nat) (w : Word) : CsrAccess := { dir := .write w, offset := offset, size := 4 }

/-- The offset of CMD in the window (R43). -/
abbrev cmdOffset : Nat := 0x00

/-- A 32-bit write of a command word to CMD (R44). -/
abbrev CsrAccess.command (w : Word) : CsrAccess := CsrAccess.writeAt cmdOffset w

/-- One action of the host. The queue of those still to come is the field `pending` of State (log 7). -/
inductive HostAction where
  /-- An access to the CSR window (R43). -/
  | csr (a : CsrAccess)
  /-- The host stores bytes into host memory, between commands (R84). -/
  | hmemStore (addr : Nat) (bytes : List Byte)
  /-- The platform asserts the block's reset (R280). -/
  | assertReset
  deriving DecidableEq, Repr

end Sys2Proof.Machine
end

