-- ==== Sys2Proof/Syntax.lean ====
section
/-! DEFINITION. The commands of the block: one constructor per row of spec/opcode_table.json (spec/30_encoding.md R102). A
command word has no operand field; the operands are the current ARG registers (R100, R106). -/

namespace Sys2Proof

/-- The eight commands (R102). -/
inductive Instr where
  /-- INIT: construct an engine (R131). -/
  | init
  /-- UPDATE_BYTE: append one byte (R151). -/
  | updateByte
  /-- UPDATE_BLOCK: append a window of a caller buffer, then scrub it (R155). -/
  | updateBlock
  /-- SET_TAG: supply the expected tag (R191). -/
  | setTag
  /-- FINALIZE: finish the message (R193). -/
  | finalize
  /-- GET_TAG: copy the encrypt-mode tag to host memory (R210). -/
  | getTag
  /-- RESET: start a fresh message under the same engine (R230). -/
  | reset
  /-- DISPOSE: zeroize every secret and kill the engine (R235). -/
  | dispose
  deriving DecidableEq, Repr

end Sys2Proof
end

