-- ==== Sys2Proof/Machine/Statement.lean ====
section
/-! DEFINITION. The statements of a host program (spec/30_encoding.md R109, R110) and its pseudo-instructions (R111), as
syntax. -/

namespace Sys2Proof.Machine

/-- The STATUS fields an EXPECT statement can name (R110). -/
inductive StatusField where
  | phase
  | mode
  | tagOutValid
  | lastErr
  deriving DecidableEq, Repr

/-- A statement of a host program (R109, R110). Operands are integers, as the source line writes them. -/
inductive Statement where
  | init (keyAddr keyLen nonceAddr nonceLen adAddr adLen rounds : Int)
  | updateByte (value : Int)
  | updateBlock (bufAddr bufLen offset length : Int)
  | setTag (tagAddr tagLen : Int)
  | finalize (outAddr outLen outOffset : Int)
  | getTag (dstAddr dstLen dstOffset : Int)
  | reset
  | dispose
  /-- WRITE: a 32-bit CSR write at the window offset. -/
  | write (offset : Nat) (word : Int)
  /-- READ: a 32-bit CSR read. -/
  | read (offset : Nat)
  /-- EXPECT: asserts a STATUS field after the previous command. -/
  | expect (field : StatusField) (value : Nat)
  deriving DecidableEq, Repr

/-- The command a statement stands for, where it stands for one (R109). -/
def Statement.instr? : Statement → Option Instr
  | .init _ _ _ _ _ _ _ => some .init
  | .updateByte _ => some .updateByte
  | .updateBlock _ _ _ _ => some .updateBlock
  | .setTag _ _ => some .setTag
  | .finalize _ _ _ => some .finalize
  | .getTag _ _ _ => some .getTag
  | .reset => some .reset
  | .dispose => some .dispose
  | .write _ _ => none
  | .read _ => none
  | .expect _ _ => none

/-- The operands of a command statement, in the order of its ARG registers (R106, R109). -/
def Statement.operands : Statement → List Int
  | .init a b c d e f g => [a, b, c, d, e, f, g]
  | .updateByte v => [v]
  | .updateBlock a b c d => [a, b, c, d]
  | .setTag a b => [a, b]
  | .finalize a b c => [a, b, c]
  | .getTag a b c => [a, b, c]
  | .reset => []
  | .dispose => []
  | .write _ _ => []
  | .read _ => []
  | .expect _ _ => []

/-- A pseudo-instruction (R111); the operands have the names the rule gives them. -/
inductive Pseudo where
  | updateAll (a n : Int)
  | encrypt (k n a al p pl o ol t : Int)
  | decrypt (k n a al c cl t o ol : Int)
  | nextMessage
  deriving DecidableEq, Repr

end Sys2Proof.Machine
end

