-- ==== Sys2Proof/WellFormed.lean ====
section
/-! DEFINITION. The checks on syntax and on parameters: what a well-formed command, CSR access, host statement and set of
implementation parameters is. -/

namespace Sys2Proof

/-- A command is well formed whatever it is: its word has no operand field (spec/30_encoding.md R103). -/
def Instr.wf : Instr → Bool
  | .init => true
  | .updateByte => true
  | .updateBlock => true
  | .setTag => true
  | .finalize => true
  | .getTag => true
  | .reset => true
  | .dispose => true

/-- The bounds of R7 and R8 on the implementation parameters. -/
def Config.Params.wf (p : Config.Params) : Bool :=
  decide (p.msgCap ≤ p.msgCapBound) && decide (p.adCap ≤ Config.adCapBound)
    && decide (1 ≤ p.hmemSize) && decide (p.hmemSize ≤ Config.hmemSizeBound)

/-- The size of the CSR window in bytes (spec/10_state.md R43). -/
def Machine.windowSize : Nat := 64

/-- R45: a 32-bit access at an offset that is a multiple of 4 within the window. -/
def Machine.CsrAccess.wf (a : Machine.CsrAccess) : Bool :=
  decide (a.size = 4) && decide (a.offset % 4 = 0) && decide (a.offset < Machine.windowSize)

/-- An operand of a statement has a 32-bit word: unsigned, or negative in two's complement (R109; log 19). -/
def Machine.operandFits (x : Int) : Bool := decide (-(2 ^ 31) ≤ x) && decide (x < 2 ^ 32)

/-- The width in bits of a STATUS field (R41). -/
def Machine.StatusField.width : Machine.StatusField → Nat
  | .phase => 2
  | .mode => 1
  | .tagOutValid => 1
  | .lastErr => 4

/-- A statement is well formed: operands have words, offsets are aligned words of the window, an expected value fits its
field (R45, R109, R110). -/
def Machine.Statement.wf (st : Machine.Statement) : Bool :=
  match st with
  | .write off w => (Machine.CsrAccess.readAt off).wf && Machine.operandFits w
  | .read off => (Machine.CsrAccess.readAt off).wf
  | .expect f v => decide (v < 2 ^ f.width)
  | st => st.operands.all Machine.operandFits

end Sys2Proof
end

