-- ==== Sys2Proof/Decode.lean ====
section
/-! DEFINITION. The command decoder (spec/30_encoding.md R104), total on every word, and the encoder from the opcode map
(R102). -/

namespace Sys2Proof

/-- Why a word is no command (R105). -/
inductive DecodeError where
  /-- RSVD, bits [31:8], is not 0. -/
  | rsvdNonzero
  /-- OPC, bits [7:0], is 0x00 or above 0x08. -/
  | opcReserved
  /-- A byte string that is not one 32-bit word. -/
  | notOneWord
  deriving DecidableEq, Repr

/-- OPC, bits [7:0] of a command word (R101). -/
def opcField (w : Word) : BitVec 8 := w.extractLsb' 0 8

/-- RSVD, bits [31:8] of a command word (R101). -/
def rsvdField (w : Word) : BitVec 24 := w.extractLsb' 8 24

/-- Decode (R104): RSVD first, then OPC, then the command OPC selects. -/
def decode (w : Word) : Except DecodeError Instr :=
  if rsvdField w ≠ 0 then .error .rsvdNonzero
  else
    match (opcField w).toNat with
    | 0x01 => .ok .init
    | 0x02 => .ok .updateByte
    | 0x03 => .ok .updateBlock
    | 0x04 => .ok .setTag
    | 0x05 => .ok .finalize
    | 0x06 => .ok .getTag
    | 0x07 => .ok .reset
    | 0x08 => .ok .dispose
    | _ => .error .opcReserved

/-- The word of four bytes in the byte-addressed view of the window: byte i holds bits [8i+7:8i] (spec/10_state.md R46). -/
def wordOfBytes (b0 b1 b2 b3 : Byte) : Word := b3 ++ b2 ++ b1 ++ b0

/-- The four bytes of a word, byte 0 first (R46). -/
def bytesOfWord (w : Word) : List Byte :=
  [w.extractLsb' 0 8, w.extractLsb' 8 8, w.extractLsb' 16 8, w.extractLsb' 24 8]

/-- Decoding the bytes of a command word. -/
def decodeBytes : List Byte → Except DecodeError Instr
  | [b0, b1, b2, b3] => decode (wordOfBytes b0 b1 b2 b3)
  | _ => .error .notOneWord

/-- The command word of each command (R102). -/
def encode : Instr → Word
  | .init => 0x00000001
  | .updateByte => 0x00000002
  | .updateBlock => 0x00000003
  | .setTag => 0x00000004
  | .finalize => 0x00000005
  | .getTag => 0x00000006
  | .reset => 0x00000007
  | .dispose => 0x00000008

/-- The mask of every row of the opcode table: all ones (R103). -/
def commandMask : Word := 0xFFFFFFFF

/-- The command the decoder reads from the word whose bits are the low `nbits` bits of `w`, all higher bits 0, laid out as
the four bytes of a CSR word. -/
def decodeTableWord (nbits w : Nat) : Option Instr :=
  match decodeBytes (bytesOfWord (BitVec.ofNat 32 (w % 2 ^ nbits))) with
  | .ok i => some i
  | .error _ => none

theorem decode_word_init : decode 0x00000001 = .ok .init := by decide
theorem decode_word_updateByte : decode 0x00000002 = .ok .updateByte := by decide
theorem decode_word_updateBlock : decode 0x00000003 = .ok .updateBlock := by decide
theorem decode_word_setTag : decode 0x00000004 = .ok .setTag := by decide
theorem decode_word_finalize : decode 0x00000005 = .ok .finalize := by decide
theorem decode_word_getTag : decode 0x00000006 = .ok .getTag := by decide
theorem decode_word_reset : decode 0x00000007 = .ok .reset := by decide
theorem decode_word_dispose : decode 0x00000008 = .ok .dispose := by decide

end Sys2Proof
end

