-- ==== Sys2Proof/Machine/State.lean ====
section
/-! DEFINITION. The state of the machine (spec/10_state.md R30), its reset value (spec/70_reset_and_hazards.md R280), and the
reasons a step can stop. -/

namespace Sys2Proof.Machine

/-- PHASE, the block's control state (R31): DEAD, OPEN, FINAL. -/
inductive Phase where
  /-- DEAD: no engine is constructed, or the engine has been disposed. -/
  | dead
  /-- OPEN: an engine is constructed and a message is being assembled. -/
  | opened
  /-- FINAL: the message has been finalized successfully. -/
  | finalized
  deriving DecidableEq, Repr

/-- The result codes LAST_ERR can hold (spec/60_exceptions.md R250); codes 11 to 15 are never produced (log 20). -/
inductive ResultCode where
  | ok
  | invalidKeySize
  | invalidNonceSize
  | invalidTagSize
  | unsupportedParameter
  | invalidRange
  | tagMismatch
  | useAfterDispose
  | invalidState
  | capacityExceeded
  | invalidCommand
  deriving DecidableEq, Repr

/-- Reasons a step faults. No command faults (R264). -/
inductive Fault where
  /-- Raised by a host store (HostAction.hmemStore) that leaves host memory 0..HMEM_SIZE-1 (R12). Safe: the machine stops where
  no host memory byte exists (log 11). -/
  | hostStoreOutsideHmem
  deriving DecidableEq, Repr

/-- Reasons a step is refused. -/
inductive Refusal where
  /-- Raised by an arm of exec for a command that has no meaning yet. Safe. No arm raises it. -/
  | notModelled (mnemonic : String)
  /-- Raised by a CSR access that is not an aligned 32-bit access within the window (R45, R264). Safe (log 10). -/
  | csrAccessNotAligned32
  deriving DecidableEq, Repr

/-- Host memory HMEM as the list of its bytes that differ from `Memory.background`, addresses strictly rising (log 5). -/
abbrev Memory := List Host.Cell

/-- The block's state elements (R30). AD_LEN, MSG_LEN and STATUS are computed from these (log 13). -/
structure Block where
  /-- PHASE (R31). -/
  phase : Phase
  /-- KEY (R33). -/
  key : Vector Byte 32
  /-- NONCE (R34): NONCE_LEN bytes. -/
  nonce : List Byte
  /-- MK, the DerivedMacKey (R35). -/
  macKey : Vector Byte 32
  /-- AD (R36), unpadded. -/
  ad : List Byte
  /-- MSG, the MessageBuffer (R37). -/
  msg : List Byte
  /-- TAG_IN (R38). -/
  tagIn : Vector Byte 16
  /-- TAG_IN_SET (R38): the mode (R47). -/
  tagInSet : Bool
  /-- TAG_OUT (R39). -/
  tagOut : Vector Byte 16
  /-- TAG_OUT_VALID (R39). -/
  tagOutValid : Bool
  /-- LAST_ERR (R254). -/
  lastErr : ResultCode
  /-- ARG0 to ARG7 (R40). -/
  arg : Vector Word 8
  deriving DecidableEq, Repr

/-- AD_LEN (R36). -/
abbrev Block.adLen (b : Block) : Nat := b.ad.length

/-- MSG_LEN (R37). -/
abbrev Block.msgLen (b : Block) : Nat := b.msg.length

/-- The power-on value of every state element (R280). -/
def Block.powerOn (p : Config.Params) : Block :=
  { phase := .dead
    key := zeros 32
    nonce := List.replicate p.nonceLen 0
    macKey := zeros 32
    ad := []
    msg := []
    tagIn := zeros 16
    tagInSet := false
    tagOut := zeros 16
    tagOutValid := false
    lastErr := .ok
    arg := Vector.replicate 8 0 }

/-- The state of the machine: the block, the host memory it reaches (R52: State × HMEM), the implementation parameters
(log 1), the host's actions still to come (log 7) and the data its latest CSR read returned (log 9). -/
structure State where
  params : Config.Params
  block : Block
  hmem : Memory
  pending : List HostAction
  readData : Option Word
  deriving DecidableEq, Repr

/-- The machine at power-on under given parameters, host memory at its background (R280; log 5). -/
def State.powerOn (p : Config.Params) : State :=
  { params := p, block := Block.powerOn p, hmem := [], pending := [], readData := none }

/-- The machine right after reset (R280), with the free parameters of Config (log 2). -/
def State.reset : State := State.powerOn Config.implementation

end Sys2Proof.Machine
end

