-- ==== Sys2Proof/Machine/Ops.lean ====
section
/-! DEFINITION. The shared operations: host memory (spec/00_scope.md R12), raising an error (R13, spec/60_exceptions.md R254),
completing a command (R14), the ordered checks of a command (R15, R256), and the CSR registers' writes. -/

namespace Sys2Proof.Machine

/-- What a host memory byte that nothing has written reads as (DESIGN CHOICE; log 5). -/
def Memory.background : Byte := 0

/-- The byte of host memory at an address. -/
def Memory.read : Memory → Nat → Byte
  | [], _ => Memory.background
  | (a, b) :: m, x => if a = x then b else Memory.read m x

/-- Host memory with the byte at an address replaced; the form stays canonical. -/
def Memory.write : Memory → Nat → Byte → Memory
  | [], x, v => if v = Memory.background then [] else [(x, v)]
  | (a, b) :: m, x, v =>
    if x < a then (if v = Memory.background then (a, b) :: m else (x, v) :: (a, b) :: m)
    else if x = a then (if v = Memory.background then m else (x, v) :: m)
    else (a, b) :: Memory.write m x v

/-- The canonical form of host memory: every listed byte differs from the background, and every listed address lies below
the ones after it. -/
def Memory.wf : Memory → Bool
  | [] => true
  | (a, b) :: m => decide (b ≠ Memory.background) && m.all (fun c => decide (a < c.1)) && Memory.wf m

/-- Every listed address lies in host memory of the given size (R70). -/
def Memory.inRange (size : Nat) (m : Memory) : Bool := m.all fun c => decide (c.1 < size)

/-- `MemRead(addr, n)` (R12): the bytes at addr .. addr+n-1 in address order. -/
def memRead (m : Memory) (addr n : Nat) : Vector Byte n := Vector.ofFn fun i => Memory.read m (addr + i)

/-- `MemWrite(addr, n, v)` (R12): byte i of v goes to addr+i; no byte where v is empty. -/
def memWrite (m : Memory) (addr : Nat) : List Byte → Memory
  | [] => m
  | v :: vs => memWrite (Memory.write m addr v) (addr + 1) vs

/-- The state with LAST_ERR set and everything else as it is. -/
def State.setLastErr (s : State) (e : ResultCode) : State := { s with block := { s.block with lastErr := e } }

/-- `raise E` (R13, R254, R255), the block's whole error handling (R259): LAST_ERR takes the code and nothing else changes. No
register saves anything and there is nothing to return to (R260). -/
def raise (e : ResultCode) (s : State) : Host.Outcome State Fault Refusal := .next (s.setLastErr e)

/-- The end of a command that did not raise (R14): LAST_ERR takes OK. -/
def complete (s : State) : Host.Outcome State Fault Refusal := .next (s.setLastErr .ok)

/-- One `if … then raise …` line of a command's rule (R15). -/
structure Check where
  fails : Bool
  code : ResultCode

/-- The code of the first check that fails, in the order of the list (R256). -/
def firstFailed : List Check → Option ResultCode
  | [] => none
  | c :: cs => if c.fails then some c.code else firstFailed cs

/-- A command (R15): its checks in order, and its effect only where none fails. -/
def runCommand (checks : List Check) (effect : State → State) (s : State) : Host.Outcome State Fault Refusal :=
  match firstFailed checks with
  | some e => raise e s
  | none => complete (effect s)

/-- `if PHASE = DEAD then raise UseAfterDispose` (R238). -/
def deadCheck (b : Block) : Check := ⟨decide (b.phase = .dead), .useAfterDispose⟩

/-- `if PHASE = FINAL then raise InvalidState` (R152, R211). -/
def finalCheck (b : Block) : Check := ⟨decide (b.phase = .finalized), .invalidState⟩

/-- A host CSR write of an operand register (R40, R43). -/
def State.writeArg (s : State) (i : Fin 8) (w : Word) : State :=
  { s with block := { s.block with arg := s.block.arg.set i w } }

/-- The state with the data a CSR read returned (R52). -/
def State.returnData (s : State) (w : Word) : State := { s with readData := some w }

end Sys2Proof.Machine
end

