-- ==== Sys2Proof/Machine/Datapath.lean ====
section
/-! DEFINITION. The datapath functions: MAC-key derivation (spec/40_construction.md R134, R136), zero padder, length encoder,
MAC-input assembler, keystream application and tag (spec/42_mac_input.md R171 to R179), comparator (spec/43_finalize.md
R201). -/

namespace Sys2Proof.Machine

/-- A state of the MAC-key derivation machine (R136). -/
inductive KeyDerivation where
  /-- KD0: request KS(KEY, NONCE, 0, 32). -/
  | kd0
  /-- KD1: the 32 returned bytes, to be latched into MK. -/
  | kd1 (returned : Vector Byte 32)
  /-- KD2: done, MK latched. -/
  | kd2 (mk : Vector Byte 32)
  deriving DecidableEq, Repr

/-- One step of the derivation (R136): block counter 0 and no other counter. -/
def KeyDerivation.step (key : Vector Byte 32) (nonce : List Byte) : KeyDerivation → KeyDerivation
  | .kd0 => .kd1 (Config.KS key nonce 0 32)
  | .kd1 returned => .kd2 returned
  | .kd2 mk => .kd2 mk

/-- The latched MK, zeros before KD2. -/
def KeyDerivation.latched : KeyDerivation → Vector Byte 32
  | .kd0 => zeros 32
  | .kd1 _ => zeros 32
  | .kd2 mk => mk

/-- DeriveMacKey (R134): the derivation run from KD0 to KD2 as one assignment (R136). -/
def deriveMacKey (key : Vector Byte 32) (nonce : List Byte) : Vector Byte 32 :=
  (KeyDerivation.step key nonce (KeyDerivation.step key nonce .kd0)).latched

/-- `pad16(n)` (R171): the number of zero bytes that brings n to a multiple of 16. -/
def pad16 (n : Nat) : Nat := (16 - n % 16) % 16

/-- The zero padder's bytes after n bytes (R173, R174). -/
def padding (n : Nat) : List Byte := List.replicate (pad16 n) 0

/-- `LE64(n)` (R172): byte i is (n >> 8i) mod 256. -/
def le64 (n : Nat) : List Byte := (List.range 8).map fun i => BitVec.ofNat 8 (n >>> (8 * i))

/-- `mac_input(A, C)` (R173). -/
def macInput (ad ct : List Byte) : List Byte :=
  ad ++ padding ad.length ++ ct ++ padding ct.length ++ le64 ad.length ++ le64 ct.length

/-- `Apply(M)` (R176): M XOR the keystream from block counter 1. -/
def applyKeystream (b : Block) (m : List Byte) : List Byte :=
  List.zipWith (· ^^^ ·) m (Config.KS b.key b.nonce 1 m.length).toList

/-- `Tag(C)` (R179), for wire-format ciphertext C (R177). -/
def computeTag (b : Block) (ct : List Byte) : Vector Byte 16 := Config.MAC b.macKey (macInput b.ad ct)

/-- The comparator (R201): the OR over all 16 byte pairs of their XOR; the tags match exactly when it is 0. -/
def comparator (t tagIn : Vector Byte 16) : Byte :=
  (List.zipWith (· ^^^ ·) t.toList tagIn.toList).foldl (· ||| ·) 0

end Sys2Proof.Machine
end

