-- ==== Sys2Proof/Machine/Operands.lean ====
section
/-! DEFINITION. Operands: the readings of ARG words (spec/00_scope.md R10), descriptors and their range checks
(spec/20_memory.md R72 to R74), and the operand layout of each command (spec/30_encoding.md R106, R107). -/

namespace Sys2Proof.Machine

/-- `uval32` (R10): a word as an unsigned integer. -/
def uval32 (w : Word) : Nat := w.toNat

/-- `sval32` (R10): a word as a two's-complement integer. -/
def sval32 (w : Word) : Int := w.toInt

/-- `uval32(ARG[i])`. -/
def Block.argU (b : Block) (i : Fin 8) : Nat := uval32 b.arg[i]

/-- `sval32(ARG[i])`. -/
def Block.argS (b : Block) (i : Fin 8) : Int := sval32 b.arg[i]

/-- A descriptor (R72): the caller buffer `HMEM[addr .. addr+bufLen)` and the window `[offset, offset+length)` of it that the
command uses. -/
structure Descriptor where
  addr : Nat
  bufLen : Nat
  offset : Int
  length : Int
  deriving DecidableEq, Repr

/-- A whole descriptor (R72): all bufLen bytes. -/
def Descriptor.whole (addr bufLen : Nat) : Descriptor :=
  { addr := addr, bufLen := bufLen, offset := 0, length := bufLen }

/-- The W-check (R73), true where it fails; the sum is exact. -/
def Descriptor.wFails (d : Descriptor) : Bool :=
  decide (d.offset < 0) || decide (d.length < 0) || decide (d.offset + d.length > d.bufLen)

/-- The H-check (R74), true where it fails; the sum is exact and covers the whole declared buffer. -/
def Descriptor.hFails (d : Descriptor) (hmemSize : Nat) : Bool := decide (d.addr + d.bufLen > hmemSize)

/-- The W-check as a line of a command. -/
def Descriptor.wCheck (d : Descriptor) : Check := ⟨d.wFails, .invalidRange⟩

/-- The H-check as a line of a command. -/
def Descriptor.hCheck (d : Descriptor) (hmemSize : Nat) : Check := ⟨d.hFails hmemSize, .invalidRange⟩

/-- The address of the first byte of the window, `addr + offset`, for a descriptor that passes the W-check. -/
def Descriptor.start (d : Descriptor) : Nat := d.addr + d.offset.toNat

/-- The number of bytes of the window, for a descriptor that passes the W-check. -/
def Descriptor.count (d : Descriptor) : Nat := d.length.toNat

/-- The operands of INIT (R106, R131). -/
structure InitOperands where
  key : Descriptor
  nonce : Descriptor
  ad : Descriptor
  rounds : Nat
  deriving DecidableEq, Repr

/-- INIT: keyAddr, keyLen, nonceAddr, nonceLen, adAddr, adLen, rounds in ARG0 to ARG6 (R106). -/
def initOperands (b : Block) : InitOperands :=
  { key := .whole (b.argU 0) (b.argU 1)
    nonce := .whole (b.argU 2) (b.argU 3)
    ad := .whole (b.argU 4) (b.argU 5)
    rounds := b.argU 6 }

/-- UPDATE_BYTE: value in ARG0[7:0]; ARG0[31:8] is ignored (R107). -/
def updateByteOperand (b : Block) : Byte := b.arg[(0 : Fin 8)].extractLsb' 0 8

/-- UPDATE_BLOCK: the window bufAddr, bufLen, offset, length in ARG0 to ARG3 (R106). -/
def updateBlockOperand (b : Block) : Descriptor :=
  { addr := b.argU 0, bufLen := b.argU 1, offset := b.argS 2, length := b.argS 3 }

/-- SET_TAG: the whole buffer tagAddr, tagLen in ARG0, ARG1 (R106). -/
def setTagOperand (b : Block) : Descriptor := .whole (b.argU 0) (b.argU 1)

/-- FINALIZE: the destination outAddr, outLen, outOffset in ARG0 to ARG2; the length is MSG_LEN (R72, R106). -/
def finalizeOperand (b : Block) : Descriptor :=
  { addr := b.argU 0, bufLen := b.argU 1, offset := b.argS 2, length := b.msgLen }

/-- GET_TAG: the destination dstAddr, dstLen, dstOffset in ARG0 to ARG2; the length is 16 (R72, R106). -/
def getTagOperand (b : Block) : Descriptor :=
  { addr := b.argU 0, bufLen := b.argU 1, offset := b.argS 2, length := 16 }

end Sys2Proof.Machine
end

