-- ==== Sys2Proof/Machine/Construction.lean ====
section
/-! DEFINITION. INIT (spec/40_construction.md). -/

namespace Sys2Proof.Machine

/-- The checks of INIT in the order of R132. -/
def initChecks (s : State) : List Check :=
  let o := initOperands s.block
  [ ⟨decide (o.key.bufLen ≠ Config.keyLen), .invalidKeySize⟩,
    ⟨decide (o.nonce.bufLen ≠ s.params.nonceLen), .invalidNonceSize⟩,
    ⟨decide (o.rounds ≠ Config.rounds), .unsupportedParameter⟩,
    o.key.hCheck s.params.hmemSize,
    o.nonce.hCheck s.params.hmemSize,
    o.ad.hCheck s.params.hmemSize,
    ⟨decide (o.ad.bufLen > s.params.adCap), .capacityExceeded⟩ ]

/-- The effects of INIT (R131, R133): the copies are snapshots, the buffers are not scrubbed (R81). -/
def initEffect (s : State) : State :=
  let o := initOperands s.block
  let key := memRead s.hmem o.key.addr 32
  let nonce := (memRead s.hmem o.nonce.addr s.params.nonceLen).toList
  { s with block :=
    { s.block with
      key := key
      nonce := nonce
      ad := (memRead s.hmem o.ad.addr o.ad.bufLen).toList
      macKey := deriveMacKey key nonce
      msg := []
      tagIn := zeros 16
      tagInSet := false
      tagOut := zeros 16
      tagOutValid := false
      phase := .opened } }

/-- INIT (R131): construct an engine, in every phase (R130). -/
def execInit (s : State) : Host.Outcome State Fault Refusal := runCommand (initChecks s) initEffect s

end Sys2Proof.Machine
end

