-- ==== Sys2Proof/Machine/Finalize.lean ====
section
/-! DEFINITION. SET_TAG, FINALIZE and GET_TAG (spec/43_finalize.md). -/

namespace Sys2Proof.Machine

/-- The checks of SET_TAG (R191). -/
def setTagChecks (s : State) : List Check :=
  let d := setTagOperand s.block
  [ deadCheck s.block, finalCheck s.block, ⟨decide (d.bufLen ≠ Config.tagLen), .invalidTagSize⟩,
    d.hCheck s.params.hmemSize ]

/-- The effect of SET_TAG (R191): the mode becomes decrypt; a second one replaces TAG_IN (R192). -/
def setTagEffect (s : State) : State :=
  { s with block :=
    { s.block with
      tagIn := memRead s.hmem (setTagOperand s.block).addr 16
      tagInSet := true } }

/-- SET_TAG (R191). -/
def execSetTag (s : State) : Host.Outcome State Fault Refusal := runCommand (setTagChecks s) setTagEffect s

/-- The comparator's accumulator in a decrypt FINALIZE (R200, R201): the tag of MSG as buffered against TAG_IN. -/
def tagAccumulator (b : Block) : Byte := comparator (computeTag b b.msg) b.tagIn

/-- The release gate (R203, R206): in decrypt mode no effect comes before this check has passed. -/
def releaseGate (b : Block) : List Check :=
  if b.tagInSet then [⟨decide (tagAccumulator b ≠ 0), .tagMismatch⟩] else []

/-- The checks of FINALIZE (R193, R194): the range before the tag, the tag last (R257). -/
def finalizeChecks (s : State) : List Check :=
  let d := finalizeOperand s.block
  [ deadCheck s.block, finalCheck s.block, d.wCheck, d.hCheck s.params.hmemSize ] ++ releaseGate s.block

/-- EncryptPath (R195): ciphertext to host memory (R197), the tag of the ciphertext just produced to TAG_OUT (R198). -/
def encryptPath (s : State) : State :=
  let ct := applyKeystream s.block s.block.msg
  { s with
    hmem := memWrite s.hmem (finalizeOperand s.block).start ct
    block :=
      { s.block with
        tagOut := computeTag s.block ct
        tagOutValid := true
        msg := []
        phase := .finalized } }

/-- DecryptPath after the comparison matched (R200): plaintext to host memory (R205); TAG_IN and TAG_IN_SET stay. -/
def decryptPath (s : State) : State :=
  let pt := applyKeystream s.block s.block.msg
  { s with
    hmem := memWrite s.hmem (finalizeOperand s.block).start pt
    block :=
      { s.block with
        msg := []
        phase := .finalized } }

/-- The effect of FINALIZE in the mode TAG_IN_SET selects (R47, R193). -/
def finalizeEffect (s : State) : State := if s.block.tagInSet then decryptPath s else encryptPath s

/-- FINALIZE (R193). -/
def execFinalize (s : State) : Host.Outcome State Fault Refusal := runCommand (finalizeChecks s) finalizeEffect s

/-- The checks of GET_TAG (R210). -/
def getTagChecks (s : State) : List Check :=
  let d := getTagOperand s.block
  [ deadCheck s.block, ⟨decide (s.block.tagOutValid = false), .invalidState⟩, d.wCheck,
    d.hCheck s.params.hmemSize ]

/-- The effect of GET_TAG (R210). -/
def getTagEffect (s : State) : State :=
  { s with hmem := memWrite s.hmem (getTagOperand s.block).start s.block.tagOut.toList }

/-- GET_TAG (R210). -/
def execGetTag (s : State) : Host.Outcome State Fault Refusal := runCommand (getTagChecks s) getTagEffect s

end Sys2Proof.Machine
end

