-- ==== Sys2Proof/Machine/Lifecycle.lean ====
section
/-! DEFINITION. RESET and DISPOSE (spec/44_reset_dispose.md). -/

namespace Sys2Proof.Machine

/-- The effects of RESET (R230): KEY, NONCE, AD and MK stay, and MK is not recomputed (R231). -/
def resetEffect (s : State) : State :=
  { s with block :=
    { s.block with
      msg := []
      tagIn := zeros 16
      tagInSet := false
      tagOut := zeros 16
      tagOutValid := false
      phase := .opened } }

/-- RESET (R230). -/
def execReset (s : State) : Host.Outcome State Fault Refusal := runCommand [deadCheck s.block] resetEffect s

/-- Every secret and every flag zeroed, the engine dead (R235, R236). -/
def zeroize (s : State) : State :=
  { s with block :=
    { s.block with
      key := zeros 32
      nonce := List.replicate s.params.nonceLen 0
      macKey := zeros 32
      ad := []
      msg := []
      tagIn := zeros 16
      tagInSet := false
      tagOut := zeros 16
      tagOutValid := false
      phase := .dead } }

/-- The effect of DISPOSE (R235): none in DEAD (R237). -/
def disposeEffect (s : State) : State := if s.block.phase = .dead then s else zeroize s

/-- DISPOSE (R235): it never raises. -/
def execDispose (s : State) : Host.Outcome State Fault Refusal := runCommand [] disposeEffect s

end Sys2Proof.Machine
end

