-- ==== Sys2Proof/Machine/Update.lean ====
section
/-! DEFINITION. The update family, UPDATE_BYTE and UPDATE_BLOCK (spec/41_streaming_update.md). It calls neither KS nor MAC
(R150). -/

namespace Sys2Proof.Machine

/-- The capacity check of the update family (R153) for `k` appended bytes. -/
def capacityCheck (s : State) (k : Nat) : Check := ⟨decide (s.block.msgLen + k > s.params.msgCap), .capacityExceeded⟩

/-- Append bytes to MSG; MSG_LEN follows. -/
def State.appendMsg (s : State) (bytes : List Byte) : State :=
  { s with block := { s.block with msg := s.block.msg ++ bytes } }

/-- The checks of UPDATE_BYTE (R151, R152). -/
def updateByteChecks (s : State) : List Check := [ deadCheck s.block, finalCheck s.block, capacityCheck s 1 ]

/-- The effect of UPDATE_BYTE (R151). -/
def updateByteEffect (s : State) : State := s.appendMsg [updateByteOperand s.block]

/-- UPDATE_BYTE (R151). -/
def execUpdateByte (s : State) : Host.Outcome State Fault Refusal :=
  runCommand (updateByteChecks s) updateByteEffect s

/-- The checks of UPDATE_BLOCK (R155): the range before the capacity. -/
def updateBlockChecks (s : State) : List Check :=
  let d := updateBlockOperand s.block
  [ deadCheck s.block, finalCheck s.block, d.wCheck, d.hCheck s.params.hmemSize, capacityCheck s d.count ]

/-- The window UPDATE_BLOCK consumes, as it stands in host memory before the command (R156). -/
def updateBlockData (s : State) : List Byte :=
  let d := updateBlockOperand s.block
  (memRead s.hmem d.start d.count).toList

/-- The effect of UPDATE_BLOCK (R155): read the whole window, append it, then scrub the window (R157). -/
def updateBlockEffect (s : State) : State :=
  let d := updateBlockOperand s.block
  { s.appendMsg (updateBlockData s) with hmem := memWrite s.hmem d.start (List.replicate d.count 0) }

/-- UPDATE_BLOCK (R155). -/
def execUpdateBlock (s : State) : Host.Outcome State Fault Refusal :=
  runCommand (updateBlockChecks s) updateBlockEffect s

end Sys2Proof.Machine
end

