-- ==== Sys2Proof/Machine/Dispatch.lean ====
section
/-! DEFINITION. The meaning of each command (spec/30_encoding.md R102): one arm per constructor of Instr. -/

namespace Sys2Proof.Machine

def exec (i : Instr) (s : State) : Host.Outcome State Fault Refusal :=
  match i with
  | .init => Sys2Proof.Machine.execInit s
  | .updateByte => Sys2Proof.Machine.execUpdateByte s
  | .updateBlock => Sys2Proof.Machine.execUpdateBlock s
  | .setTag => Sys2Proof.Machine.execSetTag s
  | .finalize => Sys2Proof.Machine.execFinalize s
  | .getTag => Sys2Proof.Machine.execGetTag s
  | .reset => Sys2Proof.Machine.execReset s
  | .dispose => Sys2Proof.Machine.execDispose s

end Sys2Proof.Machine
end

