-- ==== Sys2Proof/Machine/Flags.lean ====
section
/-! DEFINITION. STATUS (spec/10_state.md R41): the block's only flags (R49), their encodings and their places. -/

namespace Sys2Proof.Machine

/-- The encoding of PHASE (R31): DEAD=0, OPEN=1, FINAL=2; 3 is never produced. -/
def Phase.encoding : Phase → BitVec 2
  | .dead => 0
  | .opened => 1
  | .finalized => 2

/-- The result codes' numbers (spec/60_exceptions.md R250). -/
def ResultCode.code : ResultCode → BitVec 4
  | .ok => 0
  | .invalidKeySize => 1
  | .invalidNonceSize => 2
  | .invalidTagSize => 3
  | .unsupportedParameter => 4
  | .invalidRange => 5
  | .tagMismatch => 6
  | .useAfterDispose => 7
  | .invalidState => 8
  | .capacityExceeded => 9
  | .invalidCommand => 10

/-- MODE (R41, R47): TAG_IN_SET. -/
def Block.mode (b : Block) : BitVec 1 := BitVec.ofBool b.tagInSet

/-- STATUS (R41): LAST_ERR in [7:4], TAG_OUT_VALID in [3], MODE in [2], PHASE in [1:0], the rest 0. -/
def statusWord (b : Block) : Word :=
  0#24 ++ b.lastErr.code ++ BitVec.ofBool b.tagOutValid ++ b.mode ++ b.phase.encoding

/-- A field of a STATUS word, as a number (R41). -/
def StatusField.ofWord (f : StatusField) (w : Word) : Nat :=
  match f with
  | .phase => (w.extractLsb' 0 2).toNat
  | .mode => (w.extractLsb' 2 1).toNat
  | .tagOutValid => (w.extractLsb' 3 1).toNat
  | .lastErr => (w.extractLsb' 4 4).toNat

end Sys2Proof.Machine
end

