-- ==== Sys2Proof/Machine/Csr.lean ====
section
/-! DEFINITION. The CSR window (spec/10_state.md R43 to R46), one command step (spec/00_scope.md R14), and what each action of
the host does. -/

namespace Sys2Proof.Machine

/-- The registers of the CSR window (R43). -/
inductive CsrReg where
  | cmd
  | status
  | arg (i : Fin 8)
  | reserved
  deriving DecidableEq, Repr

/-- The register at a word-aligned offset of the window (R43). -/
def csrReg (offset : Nat) : CsrReg :=
  if offset = 0x00 then .cmd
  else if offset = 0x04 then .status
  else if h : 0x08 ≤ offset ∧ offset < 0x28 then .arg ⟨(offset - 0x08) / 4, by omega⟩
  else .reserved

/-- What a read of a register returns (R41, R43, R44). -/
def csrRead (b : Block) : CsrReg → Word
  | .cmd => 0
  | .status => statusWord b
  | .arg i => b.arg[i]
  | .reserved => 0

/-- The byte-addressed view of the window (R46): byte 4k+i is bits [8i+7:8i] of word k. No step uses it: R45 refuses byte
accesses. -/
def csrWindowByte (b : Block) (offset : Nat) : Byte :=
  (csrRead b (csrReg (4 * (offset / 4)))).extractLsb' (8 * (offset % 4)) 8

/-- One command step (R14): decode (R104), then the command's rule; a word that is no command raises InvalidCommand (R105). -/
def runCommandWord (w : Word) (s : State) : Host.Outcome State Fault Refusal :=
  match decode w with
  | .ok i => exec i s
  | .error _ => raise .invalidCommand s

/-- What a write of a word to a register does (R43): CMD runs a command (R44), ARG stores, STATUS and reserved words ignore. -/
def csrWrite (r : CsrReg) (w : Word) (s : State) : Host.Outcome State Fault Refusal :=
  match r with
  | .cmd => runCommandWord w s
  | .status => .next s
  | .arg i => .next (s.writeArg i w)
  | .reserved => .next s

/-- One CSR access (R43); an access outside R45 is refused (R264). -/
def csrAccess (a : CsrAccess) (s : State) : Host.Outcome State Fault Refusal :=
  if a.wf then
    match a.dir with
    | .read => .next (s.returnData (csrRead s.block (csrReg a.offset)))
    | .write w => csrWrite (csrReg a.offset) w s
  else .refused .csrAccessNotAligned32

/-- A host store of bytes into host memory between commands (R84); outside host memory no byte exists (R12; log 11). -/
def hostStore (addr : Nat) (bytes : List Byte) (s : State) : Host.Outcome State Fault Refusal :=
  if addr + bytes.length ≤ s.params.hmemSize then .next { s with hmem := memWrite s.hmem addr bytes }
  else .fault .hostStoreOutsideHmem

/-- Assertion of the block's reset (R280): every state element of the block takes its power-on value; host memory and the
host's side of the machine stay (log 12). -/
def assertReset (s : State) : State := { s with block := Block.powerOn s.params }

/-- What one action of the host does. -/
def hostAction (a : HostAction) (s : State) : Host.Outcome State Fault Refusal :=
  match a with
  | .csr a => csrAccess a s
  | .hmemStore addr bytes => hostStore addr bytes s
  | .assertReset => .next (assertReset s)

/-- One step: the oldest pending action of the host leaves the queue and takes place; with none pending the block idles
(log 8). -/
def runNext (s : State) : Host.Outcome State Fault Refusal :=
  match s.pending with
  | [] => .next s
  | a :: rest => hostAction a { s with pending := rest }

/-- The host's next action is a write of a command word to CMD. -/
def State.commandNext (s : State) (w : Word) : State := { s with pending := .csr (.command w) :: s.pending }

end Sys2Proof.Machine
end

