-- ==== Sys2Proof/Machine/Step.lean ====
section
/-! DEFINITION. One step of the machine, and placing a command as the next thing it runs (log 7). -/

namespace Sys2Proof.Machine

/-- One step: the host's next action (spec/00_scope.md R14, spec/10_state.md R44). -/
def step (s : State) : Host.Outcome State Fault Refusal := runNext s

/-- The state in which the next step writes the command word with bits `w` (above `nbits` zero) to CMD (log 7). -/
def State.withFetchWord (s : State) (nbits w : Nat) : State := s.commandNext (BitVec.ofNat 32 (w % 2 ^ nbits))

end Sys2Proof.Machine
end

