-- ==== Sys2Proof/Machine/Platform.lean ====
section
/-! DEFINITION. A platform with several instances of the block over one host memory (spec/60_exceptions.md R262). Actions take
place one at a time: the spec gives no meaning to interleaved ones (spec/20_memory.md R86; log 14, log 16). -/

namespace Sys2Proof.Machine

/-- One AEAD-ORCH instance: its parameters and its own state elements (R262). -/
structure Orch where
  params : Config.Params
  block : Block
  deriving DecidableEq, Repr

/-- Instances, each with its own CSR window, and the host memory they share (R262). Instances have no identifiers of their
own; the place in the list is the platform's. -/
structure Platform where
  orchs : List Orch
  hmem : Memory
  readData : Option Word
  deriving DecidableEq, Repr

/-- One instance as the machine of one core sees it. -/
def Platform.view (p : Platform) (o : Orch) : State :=
  { params := o.params, block := o.block, hmem := p.hmem, pending := [], readData := p.readData }

/-- The platform after instance `k` has come to state `s`. -/
def Platform.put (p : Platform) (k : Nat) (s : State) : Platform :=
  { orchs := p.orchs.set k { params := s.params, block := s.block }, hmem := s.hmem, readData := s.readData }

/-- One action of the host on the instance in place `k`. -/
def Platform.act (p : Platform) (k : Fin p.orchs.length) (a : HostAction) : Host.Outcome Platform Fault Refusal :=
  match hostAction a (p.view p.orchs[k]) with
  | .next s => .next (p.put k s)
  | .fault r => .fault r
  | .refused r => .refused r

end Sys2Proof.Machine
end

