-- ==== Sys2Proof/Machine/Assembly.lean ====
section
/-! DEFINITION. The assembler: a statement's CSR accesses (spec/30_encoding.md R109, R110) and the expansion of the
pseudo-instructions (R111). -/

namespace Sys2Proof.Machine

/-- The word of an operand: unsigned, or its 32-bit two's-complement word where negative (R109; log 19). -/
def operandWord (x : Int) : Word := BitVec.ofInt 32 x

/-- The window offset of an operand register (spec/10_state.md R43). -/
def argOffset (i : Nat) : Nat := 0x08 + 4 * i

/-- The CSR writes `ARG[k] <- operand k` from register `k` on, in order (R109). -/
def argWrites : Nat → List Int → List CsrAccess
  | _, [] => []
  | k, x :: xs => .writeAt (argOffset k) (operandWord x) :: argWrites (k + 1) xs

/-- The CSR accesses a statement assembles to (R109, R110); EXPECT makes none. -/
def assemble (st : Statement) : List CsrAccess :=
  match st.instr? with
  | some i => argWrites 0 st.operands ++ [.command (encode i)]
  | none =>
    match st with
    | .write offset word => [.writeAt offset (operandWord word)]
    | .read offset => [.readAt offset]
    | _ => []

/-- The sequence a pseudo-instruction stands for (R111); NONCE_LEN is the implementation's. -/
def Pseudo.expand (nonceLen : Nat) : Pseudo → List Statement
  | .updateAll a n => [.updateBlock a n 0 n]
  | .encrypt k n a al p pl o ol t =>
    [.init k 32 n nonceLen a al 20, .updateBlock p pl 0 pl, .finalize o ol 0, .getTag t 16 0]
  | .decrypt k n a al c cl t o ol =>
    [.init k 32 n nonceLen a al 20, .updateBlock c cl 0 cl, .setTag t 16, .finalize o ol 0]
  | .nextMessage => [.reset]

end Sys2Proof.Machine
end

