-- ==== Sys2Proof/Machine/Program.lean ====
section
/-! DEFINITION. Running a host program on the machine: each statement's CSR accesses as steps (spec/30_encoding.md R109,
R110), and a pseudo-instruction's sequence up to the first error (R111). -/

namespace Sys2Proof.Machine

/-- One CSR access as the machine's next step. -/
def runAccess (a : CsrAccess) (s : State) : Host.Outcome State Fault Refusal :=
  step { s with pending := .csr a :: s.pending }

/-- CSR accesses in order, up to the first fault or refusal. -/
def runAccesses : List CsrAccess → State → Host.Outcome State Fault Refusal
  | [], s => .next s
  | a :: rest, s =>
    match runAccess a s with
    | .next t => runAccesses rest t
    | .fault r => .fault r
    | .refused r => .refused r

/-- A statement run on the machine (R109, R110). -/
def runStatement (st : Statement) (s : State) : Host.Outcome State Fault Refusal := runAccesses (assemble st) s

/-- What EXPECT asserts (R110): the STATUS field has the value. -/
def expectHolds (f : StatusField) (value : Nat) (s : State) : Bool :=
  decide (f.ofWord (statusWord s.block) = value)

/-- How a host program ends. -/
inductive ProgramEnd where
  /-- Every statement ran and every EXPECT held. -/
  | done (s : State)
  /-- An EXPECT did not hold in this state (log 19). -/
  | expectFailed (s : State)
  | fault (r : Fault)
  | refused (r : Refusal)
  deriving DecidableEq, Repr

/-- A host program run statement by statement (R110). -/
def runProgram : List Statement → State → ProgramEnd
  | [], s => .done s
  | .expect f v :: rest, s => if expectHolds f v s then runProgram rest s else .expectFailed s
  | st :: rest, s =>
    match runStatement st s with
    | .next t => runProgram rest t
    | .fault r => .fault r
    | .refused r => .refused r

/-- Command statements in order, up to the first whose LAST_ERR is not OK (R111). -/
def runUntilError : List Statement → State → Host.Outcome State Fault Refusal
  | [], s => .next s
  | st :: rest, s =>
    match runStatement st s with
    | .next t => if t.block.lastErr = .ok then runUntilError rest t else .next t
    | .fault r => .fault r
    | .refused r => .refused r

/-- A pseudo-instruction run on the machine (R111). -/
def runPseudo (p : Pseudo) (s : State) : Host.Outcome State Fault Refusal :=
  runUntilError (p.expand s.params.nonceLen) s

end Sys2Proof.Machine
end

