-- ==== Sys2Proof/Safety.lean ====
section
/-! DEFINITION. What the claims about the machine are said in: the invariants of spec/10_state.md R48, the result codes a
command can report (spec/60_exceptions.md R253), the phase transitions (R32), what an observer of the CSR window sees (R42),
and runs that feed a message (spec/41_streaming_update.md R158). -/

namespace Sys2Proof.Machine

/-- The block's invariants (R48), and the width of NONCE (R30). -/
structure Block.Inv (p : Config.Params) (b : Block) : Prop where
  /-- (I1) -/
  deadIsZero : b.phase = .dead →
    b.key = zeros 32 ∧ b.nonce = List.replicate p.nonceLen 0 ∧ b.macKey = zeros 32 ∧ b.ad = [] ∧ b.msg = [] ∧
    b.tagIn = zeros 16 ∧ b.tagOut = zeros 16 ∧ b.tagInSet = false ∧ b.tagOutValid = false
  /-- (I2) -/
  macKeyDerived : b.phase ≠ .dead → b.macKey = Config.KS b.key b.nonce 0 32
  /-- (I3) -/
  tagOutOnlyFinal : b.tagOutValid = true → b.phase = .finalized ∧ b.tagInSet = false
  /-- (I4) -/
  finalIsEmpty : b.phase = .finalized → b.msg = []
  /-- (I5) -/
  withinCapacity : b.msgLen ≤ p.msgCap ∧ b.adLen ≤ p.adCap
  /-- (I6) -/
  tagOutZero : b.tagOutValid = false → b.tagOut = zeros 16
  /-- NONCE holds NONCE_LEN bytes. -/
  nonceWidth : b.nonce.length = p.nonceLen

/-- The machine's invariant: parameters in their ranges (R7), host memory in canonical form and inside HMEM_SIZE, and the
block's invariants. -/
structure State.Inv (s : State) : Prop where
  paramsWf : s.params.wf = true
  memCanonical : Memory.wf s.hmem = true
  memInRange : Memory.inRange s.params.hmemSize s.hmem = true
  blockInv : s.block.Inv s.params

/-- The result codes a command can report (R253); OK is possible for every command (R250). -/
def canReport : Instr → List ResultCode
  | .init => [.ok, .invalidKeySize, .invalidNonceSize, .unsupportedParameter, .invalidRange, .capacityExceeded]
  | .updateByte => [.ok, .useAfterDispose, .invalidState, .capacityExceeded]
  | .updateBlock => [.ok, .invalidRange, .useAfterDispose, .invalidState, .capacityExceeded]
  | .setTag => [.ok, .invalidTagSize, .invalidRange, .useAfterDispose, .invalidState]
  | .finalize => [.ok, .invalidRange, .tagMismatch, .useAfterDispose, .invalidState]
  | .getTag => [.ok, .invalidRange, .useAfterDispose, .invalidState]
  | .reset => [.ok, .useAfterDispose]
  | .dispose => [.ok]

/-- The transitions of PHASE by a successful command (R32). -/
def phaseMoves : Instr → Phase → Phase → Bool
  | .init, _, q => decide (q = .opened)
  | .updateByte, p, q => decide (p = .opened ∧ q = .opened)
  | .updateBlock, p, q => decide (p = .opened ∧ q = .opened)
  | .setTag, p, q => decide (p = .opened ∧ q = .opened)
  | .finalize, p, q => decide (p = .opened ∧ q = .finalized)
  | .getTag, p, q => decide (p = .finalized ∧ q = .finalized)
  | .reset, p, q => decide (p ≠ .dead ∧ q = .opened)
  | .dispose, _, q => decide (q = .dead)

/-- What can be told apart through the CSR window, and the length of MSG (R42: "not secret"). -/
structure SameObservable (a b : Block) : Prop where
  phase : a.phase = b.phase
  mode : a.tagInSet = b.tagInSet
  tagOutValid : a.tagOutValid = b.tagOutValid
  lastErr : a.lastErr = b.lastErr
  arg : a.arg = b.arg
  msgLen : a.msgLen = b.msgLen

/-- The values R42 lets reach the host: FINALIZE's output bytes, GET_TAG's tag, and the outcome of the comparison. -/
structure SameDisclosed (a b : Block) : Prop where
  output : applyKeystream a a.msg = applyKeystream b b.msg
  tagOut : a.tagOut = b.tagOut
  tagMatch : tagAccumulator a = 0 ↔ tagAccumulator b = 0

/-- Two machines whose host sees the same: the same public block state, host memory, queue, parameters and read data. -/
structure SameToHost (s t : State) : Prop where
  params : s.params = t.params
  block : SameObservable s.block t.block
  hmem : s.hmem = t.hmem
  pending : s.pending = t.pending
  readData : s.readData = t.readData

/-- A host action that runs no command and asserts no reset: a CSR read, a CSR write that is not to CMD, a host store. -/
def HostAction.quiet : HostAction → Bool
  | .csr a =>
    match a.dir with
    | .read => true
    | .write _ => decide (csrReg a.offset ≠ .cmd)
  | .hmemStore _ _ => true
  | .assertReset => false

/-- The two update commands (R150). -/
def isUpdate (i : Instr) : Bool := decide (i = .updateByte) || decide (i = .updateBlock)

/-- The bytes a successful update command appends (R151, R155). -/
def updatePiece : Instr → State → List Byte
  | .updateByte, s => [updateByteOperand s.block]
  | .updateBlock, s => updateBlockData s
  | .init, _ => []
  | .setTag, _ => []
  | .finalize, _ => []
  | .getTag, _ => []
  | .reset, _ => []
  | .dispose, _ => []

/-- `Feeds s P t`: a run of steps from `s` to `t` of update commands and quiet host actions, in which the pieces the
successful updates append concatenate to `P` (R158, R159). -/
inductive Feeds : State → List Byte → State → Prop where
  | done (s : State) : Feeds s [] s
  | quiet {s m t : State} {P : List Byte} {a : HostAction} {rest : List HostAction} :
      s.pending = a :: rest → a.quiet = true → step s = .next m → Feeds m P t → Feeds s P t
  | raised {s m t : State} {P : List Byte} {i : Instr} {rest : List HostAction} :
      s.pending = .csr (.command (encode i)) :: rest → isUpdate i = true → step s = .next m →
      m.block.lastErr ≠ .ok → Feeds m P t → Feeds s P t
  | update {s m t : State} {P : List Byte} {i : Instr} {rest : List HostAction} :
      s.pending = .csr (.command (encode i)) :: rest → isUpdate i = true → step s = .next m →
      m.block.lastErr = .ok → Feeds m P t → Feeds s (updatePiece i s ++ P) t

end Sys2Proof.Machine
end

