-- ==== Sys2Proof/Certificates/Slice0/Obligations.lean ====
section
/-! DEFINITION. The statements for the provers, made from the numbered rules of spec/. -/

open Sys2Proof Sys2Proof.Machine

/-! ## Encoding and assembly -/

/-- R102: each command word of the opcode map, written out, decodes to its command. -/
def Obligations.CommandWordsDecode : Prop :=
  decode 0x00000001 = .ok .init ∧ decode 0x00000002 = .ok .updateByte ∧ decode 0x00000003 = .ok .updateBlock ∧
  decode 0x00000004 = .ok .setTag ∧ decode 0x00000005 = .ok .finalize ∧ decode 0x00000006 = .ok .getTag ∧
  decode 0x00000007 = .ok .reset ∧ decode 0x00000008 = .ok .dispose

/-- R103: a word selects a command exactly when, under the all-ones mask, it is that command's word. -/
def Obligations.DecodeSelectsExactlyItsWord : Prop :=
  ∀ (w : Word) (i : Instr), decode w = .ok i ↔ w &&& 0xFFFFFFFF = encode i

/-- Every well-formed command decodes from its word, and from the word's four little-endian bytes (R46), to itself. -/
def Obligations.EncodedCommandDecodesToItself : Prop :=
  ∀ i : Instr, i.wf = true → decode (encode i) = .ok i ∧ decodeBytes (bytesOfWord (encode i)) = .ok i

/-- R104, R105: a CMD write of a word with RSVD ≠ 0, or with OPC 0x00 or above 0x08, raises InvalidCommand and changes nothing
else; every other word is the word of a command, and the step runs it. -/
def Obligations.EveryOtherWordRaisesInvalidCommand : Prop :=
  ∀ (s : State) (w : Word) (rest : List HostAction), s.pending = .csr (.command w) :: rest →
    let s₀ : State := { s with pending := rest }
    (w.toNat / 256 ≠ 0 → step s = .next (s₀.setLastErr .invalidCommand)) ∧
    (w.toNat / 256 = 0 → (w.toNat % 256 = 0 ∨ 8 < w.toNat % 256) → step s = .next (s₀.setLastErr .invalidCommand)) ∧
    (w.toNat / 256 = 0 → 1 ≤ w.toNat % 256 → w.toNat % 256 ≤ 8 → ∃ i, w = encode i ∧ step s = exec i s₀)

/-- The 32-bit word of an operand reads back as the operand: unsigned where it is not negative, signed where it is below 2^31
(R107, R109; log 19). -/
def Obligations.OperandWordReadsBack : Prop :=
  ∀ x : Int, operandFits x = true →
    (0 ≤ x → (uval32 (operandWord x) : Int) = x) ∧ (x < 2 ^ 31 → sval32 (operandWord x) = x)

/-- R109: the CSR accesses a well-formed command statement assembles to write its operands, in order, to ARG0, ARG1, … and
nothing else, each register reads back as its operand (R106, R107; log 19), and then the command runs. -/
def Obligations.AssembledStatementRunsItsCommand : Prop :=
  ∀ (st : Statement) (i : Instr) (s : State), st.wf = true → st.instr? = some i →
    ∃ args : Vector Word 8,
      (∀ k : Fin 8, args[k] = if h : k.val < st.operands.length then operandWord (st.operands[k.val]) else s.block.arg[k]) ∧
      (∀ (k : Fin 8) (h : k.val < st.operands.length),
        (0 ≤ st.operands[k.val] → (uval32 args[k] : Int) = st.operands[k.val]) ∧
        (st.operands[k.val] < 2 ^ 31 → sval32 args[k] = st.operands[k.val])) ∧
      runStatement st s = exec i { s with block := { s.block with arg := args } }

/-! ## The CSR window and the step -/

/-- R44: a step whose CSR access writes a word to CMD is the command the word decodes to, run on the state with that access
taken from the queue; a word that decodes to none raises InvalidCommand; reading CMD returns 0. -/
def Obligations.StepRunsTheDecodedCommand : Prop :=
  ∀ (s : State) (w : Word) (rest : List HostAction),
    (s.pending = .csr (.command w) :: rest →
      (∀ i, decode w = .ok i → step s = exec i { s with pending := rest }) ∧
      (∀ e, decode w = .error e →
        step s = .next (({ s with pending := rest } : State).setLastErr .invalidCommand))) ∧
    (s.pending = .csr (.readAt 0x00) :: rest →
      step s = .next { s with pending := rest, readData := some 0 })

/-- R43: what a read and a write of each word of the CSR window does. A read changes nothing in the block; a write to STATUS
or to a reserved word is ignored; a write to an ARG register stores; a write to CMD executes the command. -/
def Obligations.CsrWindowMap : Prop :=
  ∀ (s : State) (off : Nat) (w : Word) (rest : List HostAction),
    let s₀ : State := { s with pending := rest }
    (s.pending = .csr (.readAt off) :: rest →
      (off = 0x00 → step s = .next { s₀ with readData := some 0 }) ∧
      (off = 0x04 → step s = .next { s₀ with readData := some (statusWord s.block) }) ∧
      (∀ k : Fin 8, off = 0x08 + 4 * k.val → step s = .next { s₀ with readData := some s.block.arg[k] }) ∧
      (0x28 ≤ off → off ≤ 0x3C → off % 4 = 0 → step s = .next { s₀ with readData := some 0 })) ∧
    (s.pending = .csr (.writeAt off w) :: rest →
      (off = 0x00 → step s = runCommandWord w s₀) ∧
      (off = 0x04 → step s = .next s₀) ∧
      (∀ k : Fin 8, off = 0x08 + 4 * k.val →
        step s = .next { s₀ with block := { s.block with arg := s.block.arg.set k w } }) ∧
      (0x28 ≤ off → off ≤ 0x3C → off % 4 = 0 → step s = .next s₀))

/-- R41, with the encoding of PHASE (R31) and the numbers of the result codes (R250): the fields of STATUS stand at their
bits, the rest is 0, and at power-on the word is 0; a read of STATUS changes nothing but the read data, a write nothing. -/
def Obligations.StatusFieldsAtTheirBits : Prop :=
  (∀ b : Block,
    (statusWord b).toNat % 4 = (match b.phase with | .dead => 0 | .opened => 1 | .finalized => 2) ∧
    (statusWord b).toNat / 4 % 2 = b.tagInSet.toNat ∧
    (statusWord b).toNat / 8 % 2 = b.tagOutValid.toNat ∧
    (statusWord b).toNat / 16 % 16 = (match b.lastErr with
      | .ok => 0 | .invalidKeySize => 1 | .invalidNonceSize => 2 | .invalidTagSize => 3 | .unsupportedParameter => 4
      | .invalidRange => 5 | .tagMismatch => 6 | .useAfterDispose => 7 | .invalidState => 8 | .capacityExceeded => 9
      | .invalidCommand => 10) ∧
    (statusWord b).toNat / 256 = 0) ∧
  (∀ p : Config.Params, statusWord (Block.powerOn p) = 0) ∧
  (∀ (s : State) (w : Word) (rest : List HostAction),
    (s.pending = .csr (.readAt 0x04) :: rest →
      step s = .next { s with pending := rest, readData := some (statusWord s.block) }) ∧
    (s.pending = .csr (.writeAt 0x04 w) :: rest → step s = .next { s with pending := rest }))

/-- R251: no two result codes share a number. -/
def Obligations.ResultCodesAreDistinct : Prop :=
  ∀ e e' : ResultCode, e.code = e'.code → e = e'

/-- R45: an aligned 32-bit access within the window has a step; every other CSR access is refused. -/
def Obligations.OnlyAlignedWordAccessesHaveAStep : Prop :=
  ∀ (s : State) (a : CsrAccess) (rest : List HostAction), s.pending = .csr a :: rest →
    (a.size = 4 ∧ a.offset % 4 = 0 ∧ a.offset < 64 → ∃ t, step s = .next t) ∧
    (¬(a.size = 4 ∧ a.offset % 4 = 0 ∧ a.offset < 64) → step s = .refused .csrAccessNotAligned32)

/-- Every command answers a next state in every state. A step is refused only for a CSR access outside R45, and faults only
for a host store outside host memory (that fault is the model's own, log 11). -/
def Obligations.OnlyTheHostCanStopTheMachine : Prop :=
  (∀ (i : Instr) (s : State), ∃ t, exec i s = .next t) ∧
  (∀ (s : State) (r : Refusal), step s = .refused r →
    ∃ a rest, s.pending = .csr a :: rest ∧ a.wf = false ∧ r = .csrAccessNotAligned32) ∧
  (∀ (s : State) (r : Fault), step s = .fault r →
    ∃ addr bytes rest, s.pending = .hmemStore addr bytes :: rest ∧ addr + bytes.length > s.params.hmemSize)

/-- R46: byte offset 4k+i of the window holds bits [8i+7:8i] of word k. -/
def Obligations.CsrWindowIsLittleEndian : Prop :=
  ∀ (b : Block) (k i : Nat), k < 16 → i < 4 →
    (csrWindowByte b (4 * k + i)).toNat = (csrRead b (csrReg (4 * k))).toNat / 2 ^ (8 * i) % 256

/-- A host store inside host memory (R84) leaves its bytes where the block's next reads find them, changes no other byte and
nothing of the block: the block's copies are snapshots (R80). Outside host memory it faults (the model's own, log 11). -/
def Obligations.HostStoreReachesHostMemoryOnly : Prop :=
  ∀ (s : State) (addr : Nat) (bytes : List Byte) (rest : List HostAction),
    s.pending = .hmemStore addr bytes :: rest → Memory.wf s.hmem = true →
    (addr + bytes.length ≤ s.params.hmemSize → ∃ t, step s = .next t ∧
      (memRead t.hmem addr bytes.length).toList = bytes ∧
      (∀ x, x < addr ∨ addr + bytes.length ≤ x → Memory.read t.hmem x = Memory.read s.hmem x) ∧
      t.block = s.block ∧ t.params = s.params ∧ t.readData = s.readData ∧ t.pending = rest) ∧
    (addr + bytes.length > s.params.hmemSize → step s = .fault .hostStoreOutsideHmem)

/-- With no host action pending a step changes nothing (the model's own choice, log 8: the block acts on CSR accesses only). -/
def Obligations.BlockIdlesWithoutAHostAction : Prop :=
  ∀ s : State, s.pending = [] → step s = .next s

/-- R280: at power-on, and when the platform asserts the block's reset, every state element takes the value the rule lists;
host memory is not reset. -/
def Obligations.PowerOnValues : Prop :=
  (∀ p : Config.Params, Block.powerOn p =
    { phase := .dead, key := zeros 32, nonce := List.replicate p.nonceLen 0, macKey := zeros 32, ad := [], msg := [],
      tagIn := zeros 16, tagInSet := false, tagOut := zeros 16, tagOutValid := false, lastErr := .ok,
      arg := #v[0, 0, 0, 0, 0, 0, 0, 0] }) ∧
  State.reset.block = Block.powerOn State.reset.params ∧
  (∀ (s : State) (rest : List HostAction), s.pending = .assertReset :: rest →
    step s = .next { s with pending := rest, block := Block.powerOn s.params })

/-! ## The commands -/

/-- R131, R132: INIT. The checks in their order, each with its code and nothing else changed; when all pass, the whole new
state. -/
def Obligations.InitRule : Prop :=
  decode 0x00000001 = .ok .init ∧
  ∀ s : State,
    let keyAddr := (s.block.arg[0]).toNat
    let keyLen := (s.block.arg[1]).toNat
    let nonceAddr := (s.block.arg[2]).toNat
    let nonceLen := (s.block.arg[3]).toNat
    let adAddr := (s.block.arg[4]).toNat
    let adLen := (s.block.arg[5]).toNat
    let rounds := (s.block.arg[6]).toNat
    let size := s.params.hmemSize
    let N := s.params.nonceLen
    (keyLen ≠ 32 → exec .init s = .next (s.setLastErr .invalidKeySize)) ∧
    (keyLen = 32 → nonceLen ≠ N → exec .init s = .next (s.setLastErr .invalidNonceSize)) ∧
    (keyLen = 32 → nonceLen = N → rounds ≠ 20 → exec .init s = .next (s.setLastErr .unsupportedParameter)) ∧
    (keyLen = 32 → nonceLen = N → rounds = 20 →
      (keyAddr + 32 > size ∨ nonceAddr + N > size ∨ adAddr + adLen > size) →
      exec .init s = .next (s.setLastErr .invalidRange)) ∧
    (keyLen = 32 → nonceLen = N → rounds = 20 →
      keyAddr + 32 ≤ size → nonceAddr + N ≤ size → adAddr + adLen ≤ size → adLen > s.params.adCap →
      exec .init s = .next (s.setLastErr .capacityExceeded)) ∧
    (keyLen = 32 → nonceLen = N → rounds = 20 →
      keyAddr + 32 ≤ size → nonceAddr + N ≤ size → adAddr + adLen ≤ size → adLen ≤ s.params.adCap →
      exec .init s = .next { s with block := { s.block with
        key := memRead s.hmem keyAddr 32
        nonce := (memRead s.hmem nonceAddr N).toList
        ad := (memRead s.hmem adAddr adLen).toList
        macKey := Config.KS (memRead s.hmem keyAddr 32) (memRead s.hmem nonceAddr N).toList 0 32
        msg := []
        tagIn := zeros 16
        tagInSet := false
        tagOut := zeros 16
        tagOutValid := false
        phase := .opened
        lastErr := .ok } })

/-- R151, R153: UPDATE_BYTE. -/
def Obligations.UpdateByteRule : Prop :=
  decode 0x00000002 = .ok .updateByte ∧
  ∀ s : State,
    (s.block.phase = .dead → exec .updateByte s = .next (s.setLastErr .useAfterDispose)) ∧
    (s.block.phase = .finalized → exec .updateByte s = .next (s.setLastErr .invalidState)) ∧
    (s.block.phase = .opened → s.block.msg.length + 1 > s.params.msgCap →
      exec .updateByte s = .next (s.setLastErr .capacityExceeded)) ∧
    (s.block.phase = .opened → s.block.msg.length + 1 ≤ s.params.msgCap →
      exec .updateByte s = .next { s with block := { s.block with
        msg := s.block.msg ++ [BitVec.ofNat 8 ((s.block.arg[0]).toNat % 256)]
        lastErr := .ok } })

/-- R152: in DEAD both update commands raise UseAfterDispose, in FINAL both raise InvalidState, before any other check. -/
def Obligations.UpdateFamilyPhaseChecks : Prop :=
  ∀ (i : Instr) (s : State), isUpdate i = true →
    (s.block.phase = .dead → exec i s = .next (s.setLastErr .useAfterDispose)) ∧
    (s.block.phase = .finalized → exec i s = .next (s.setLastErr .invalidState))

/-- R155, R156: UPDATE_BLOCK. The window is read as it stood before the command, appended, and scrubbed. -/
def Obligations.UpdateBlockRule : Prop :=
  decode 0x00000003 = .ok .updateBlock ∧
  ∀ s : State,
    let bufAddr := (s.block.arg[0]).toNat
    let bufLen := (s.block.arg[1]).toNat
    let offset := (s.block.arg[2]).toInt
    let length := (s.block.arg[3]).toInt
    let wFails := offset < 0 ∨ length < 0 ∨ offset + length > bufLen
    let hFails := bufAddr + bufLen > s.params.hmemSize
    let full := s.block.msg.length + length > s.params.msgCap
    (s.block.phase = .dead → exec .updateBlock s = .next (s.setLastErr .useAfterDispose)) ∧
    (s.block.phase = .finalized → exec .updateBlock s = .next (s.setLastErr .invalidState)) ∧
    (s.block.phase = .opened → wFails ∨ hFails → exec .updateBlock s = .next (s.setLastErr .invalidRange)) ∧
    (s.block.phase = .opened → ¬wFails → ¬hFails → full →
      exec .updateBlock s = .next (s.setLastErr .capacityExceeded)) ∧
    (s.block.phase = .opened → ¬wFails → ¬hFails → ¬full →
      exec .updateBlock s = .next { s with
        hmem := memWrite s.hmem (bufAddr + offset.toNat) (List.replicate length.toNat 0)
        block := { s.block with
          msg := s.block.msg ++ (memRead s.hmem (bufAddr + offset.toNat) length.toNat).toList
          lastErr := .ok } })

/-- R157: after a successful UPDATE_BLOCK the bytes of the consumed window are zero and no other host byte has changed; a
raising one scrubs nothing. -/
def Obligations.UpdateBlockScrubsExactlyItsWindow : Prop :=
  ∀ s : State, Memory.wf s.hmem = true →
    let start := (s.block.arg[0]).toNat + (s.block.arg[2]).toInt.toNat
    let count := (s.block.arg[3]).toInt.toNat
    ∃ t, exec .updateBlock s = .next t ∧
      (t.block.lastErr = .ok → ∀ x, Memory.read t.hmem x =
        if start ≤ x ∧ x < start + count then 0 else Memory.read s.hmem x) ∧
      (t.block.lastErr ≠ .ok → t.hmem = s.hmem)

/-- R191: SET_TAG. -/
def Obligations.SetTagRule : Prop :=
  decode 0x00000004 = .ok .setTag ∧
  ∀ s : State,
    let tagAddr := (s.block.arg[0]).toNat
    let tagLen := (s.block.arg[1]).toNat
    (s.block.phase = .dead → exec .setTag s = .next (s.setLastErr .useAfterDispose)) ∧
    (s.block.phase = .finalized → exec .setTag s = .next (s.setLastErr .invalidState)) ∧
    (s.block.phase = .opened → tagLen ≠ 16 → exec .setTag s = .next (s.setLastErr .invalidTagSize)) ∧
    (s.block.phase = .opened → tagLen = 16 → tagAddr + 16 > s.params.hmemSize →
      exec .setTag s = .next (s.setLastErr .invalidRange)) ∧
    (s.block.phase = .opened → tagLen = 16 → tagAddr + 16 ≤ s.params.hmemSize →
      exec .setTag s = .next { s with block := { s.block with
        tagIn := memRead s.hmem tagAddr 16
        tagInSet := true
        lastErr := .ok } })

/-- R193 with its two paths R195 and R200: FINALIZE. -/
def Obligations.FinalizeRule : Prop :=
  decode 0x00000005 = .ok .finalize ∧
  ∀ s : State,
    let outAddr := (s.block.arg[0]).toNat
    let outLen := (s.block.arg[1]).toNat
    let outOffset := (s.block.arg[2]).toInt
    let msgLen := s.block.msg.length
    let rangeFails := outOffset < 0 ∨ outOffset + msgLen > outLen ∨ outAddr + outLen > s.params.hmemSize
    let out := List.zipWith (· ^^^ ·) s.block.msg (Config.KS s.block.key s.block.nonce 1 msgLen).toList
    let T := Config.MAC s.block.macKey (macInput s.block.ad s.block.msg)
    (s.block.phase = .dead → exec .finalize s = .next (s.setLastErr .useAfterDispose)) ∧
    (s.block.phase = .finalized → exec .finalize s = .next (s.setLastErr .invalidState)) ∧
    (s.block.phase = .opened → rangeFails → exec .finalize s = .next (s.setLastErr .invalidRange)) ∧
    (s.block.phase = .opened → ¬rangeFails → s.block.tagInSet = false →
      exec .finalize s = .next { s with
        hmem := memWrite s.hmem (outAddr + outOffset.toNat) out
        block := { s.block with
          tagOut := Config.MAC s.block.macKey (macInput s.block.ad out)
          tagOutValid := true
          msg := []
          phase := .finalized
          lastErr := .ok } }) ∧
    (s.block.phase = .opened → ¬rangeFails → s.block.tagInSet = true → comparator T s.block.tagIn ≠ 0 →
      exec .finalize s = .next (s.setLastErr .tagMismatch)) ∧
    (s.block.phase = .opened → ¬rangeFails → s.block.tagInSet = true → comparator T s.block.tagIn = 0 →
      exec .finalize s = .next { s with
        hmem := memWrite s.hmem (outAddr + outOffset.toNat) out
        block := { s.block with
          msg := []
          phase := .finalized
          lastErr := .ok } })

/-- R209: on every path of FINALIZE either every byte of the output window holds its correct value, message byte XOR keystream
byte from block counter 1, and no other host byte has changed, or no host byte has changed at all. -/
def Obligations.FinalizeOutputIsAllOrNothing : Prop :=
  ∀ s : State, Memory.wf s.hmem = true →
    let start := (s.block.arg[0]).toNat + (s.block.arg[2]).toInt.toNat
    ∃ t, exec .finalize s = .next t ∧
      (t.block.lastErr = .ok →
        (∀ (j : Nat) (h : j < s.block.msg.length),
          Memory.read t.hmem (start + j) = s.block.msg[j] ^^^ Config.keystreamByte s.block.key s.block.nonce 1 j) ∧
        (∀ x, x < start ∨ start + s.block.msg.length ≤ x → Memory.read t.hmem x = Memory.read s.hmem x)) ∧
      (t.block.lastErr ≠ .ok → t.hmem = s.hmem)

/-- R210: GET_TAG. -/
def Obligations.GetTagRule : Prop :=
  decode 0x00000006 = .ok .getTag ∧
  ∀ s : State,
    let dstAddr := (s.block.arg[0]).toNat
    let dstLen := (s.block.arg[1]).toNat
    let dstOffset := (s.block.arg[2]).toInt
    let rangeFails := dstOffset < 0 ∨ dstOffset + 16 > dstLen ∨ dstAddr + dstLen > s.params.hmemSize
    (s.block.phase = .dead → exec .getTag s = .next (s.setLastErr .useAfterDispose)) ∧
    (s.block.phase ≠ .dead → s.block.tagOutValid = false → exec .getTag s = .next (s.setLastErr .invalidState)) ∧
    (s.block.phase ≠ .dead → s.block.tagOutValid = true → rangeFails →
      exec .getTag s = .next (s.setLastErr .invalidRange)) ∧
    (s.block.phase ≠ .dead → s.block.tagOutValid = true → ¬rangeFails →
      exec .getTag s = .next { s with
        hmem := memWrite s.hmem (dstAddr + dstOffset.toNat) s.block.tagOut.toList
        block := { s.block with lastErr := .ok } })

/-- A successful GET_TAG puts the 16 bytes of TAG_OUT at the destination in address order and changes no other host byte and
nothing of the block but LAST_ERR; a raising one changes no host byte. -/
def Obligations.GetTagWritesSixteenBytes : Prop :=
  ∀ s : State, Memory.wf s.hmem = true →
    let start := (s.block.arg[0]).toNat + (s.block.arg[2]).toInt.toNat
    ∃ t, exec .getTag s = .next t ∧
      (t.block.lastErr = .ok → ∀ j : Fin 16, Memory.read t.hmem (start + j) = s.block.tagOut[j]) ∧
      (t.block.lastErr = .ok → ∀ x, x < start ∨ start + 16 ≤ x → Memory.read t.hmem x = Memory.read s.hmem x) ∧
      (t.block.lastErr ≠ .ok → t.hmem = s.hmem) ∧
      t.block = { s.block with lastErr := t.block.lastErr }

/-- R230: RESET. KEY, NONCE, AD, MK and host memory stay. -/
def Obligations.ResetRule : Prop :=
  decode 0x00000007 = .ok .reset ∧
  ∀ s : State,
    (s.block.phase = .dead → exec .reset s = .next (s.setLastErr .useAfterDispose)) ∧
    (s.block.phase ≠ .dead → exec .reset s = .next { s with block := { s.block with
      msg := []
      tagIn := zeros 16
      tagInSet := false
      tagOut := zeros 16
      tagOutValid := false
      phase := .opened
      lastErr := .ok } })

/-- R235, R237: DISPOSE. It zeroes every secret, and in DEAD it changes nothing and reports OK. -/
def Obligations.DisposeRule : Prop :=
  decode 0x00000008 = .ok .dispose ∧
  ∀ s : State,
    (s.block.phase = .dead → exec .dispose s = .next (s.setLastErr .ok)) ∧
    (s.block.phase ≠ .dead → exec .dispose s = .next { s with block := { s.block with
      key := zeros 32
      nonce := List.replicate s.params.nonceLen 0
      macKey := zeros 32
      ad := []
      msg := []
      tagIn := zeros 16
      tagInSet := false
      tagOut := zeros 16
      tagOutValid := false
      phase := .dead
      lastErr := .ok } })

/-! ## Frames over all commands -/

/-- INIT, UPDATE_BYTE, SET_TAG, RESET and DISPOSE write no host byte: every address reads as before (R71). -/
def Obligations.CommandsWithoutOutputKeepHostMemory : Prop :=
  ∀ (i : Instr) (s : State), i = .init ∨ i = .updateByte ∨ i = .setTag ∨ i = .reset ∨ i = .dispose →
    ∃ t, exec i s = .next t ∧ ∀ x, Memory.read t.hmem x = Memory.read s.hmem x

/-- No command writes an ARG register (R40); none touches the parameters (R7), the queue of host actions or the read data. -/
def Obligations.CommandsLeaveArgRegisters : Prop :=
  ∀ (i : Instr) (s : State), ∃ t, exec i s = .next t ∧
    t.block.arg = s.block.arg ∧ t.params = s.params ∧ t.pending = s.pending ∧ t.readData = s.readData

/-- No command other than INIT and DISPOSE writes KEY, NONCE, MK or AD (R30, R33 to R36, R133). -/
def Obligations.KeyMaterialHasTwoWriters : Prop :=
  ∀ (i : Instr) (s : State), i ≠ .init → i ≠ .dispose → ∃ t, exec i s = .next t ∧
    t.block.key = s.block.key ∧ t.block.nonce = s.block.nonce ∧ t.block.macKey = s.block.macKey ∧
    t.block.ad = s.block.ad

/-- TAG_IN is written only by SET_TAG, INIT, RESET and DISPOSE; TAG_OUT and TAG_OUT_VALID only by FINALIZE, INIT, RESET and
DISPOSE, and FINALIZE writes them in encrypt mode only (R30, R38, R39). -/
def Obligations.TagRegistersHaveTheirWriters : Prop :=
  ∀ (i : Instr) (s : State), i ≠ .init → i ≠ .reset → i ≠ .dispose → ∃ t, exec i s = .next t ∧
    (i ≠ .setTag → t.block.tagIn = s.block.tagIn ∧ t.block.tagInSet = s.block.tagInSet) ∧
    ((i ≠ .finalize ∨ s.block.tagInSet = true) →
      t.block.tagOut = s.block.tagOut ∧ t.block.tagOutValid = s.block.tagOutValid)

/-- The mode within one cycle (R47, R192): once TAG_IN_SET is 1, only INIT, RESET and DISPOSE bring it back to 0. -/
def Obligations.ModeNeverReturnsToEncrypt : Prop :=
  ∀ (i : Instr) (s : State), s.block.tagInSet = true → ∃ t, exec i s = .next t ∧
    (t.block.tagInSet = false → (i = .init ∨ i = .reset ∨ i = .dispose) ∧ t.block.lastErr = .ok)

/-! ## Errors -/

/-- R255: whatever word is written to CMD, the step answers a next state, and where that state's LAST_ERR is not OK, every
other state element, every ARG register and every host byte is exactly as before the command. -/
def Obligations.ErrorsArePrecise : Prop :=
  ∀ (s : State) (w : Word) (rest : List HostAction), s.pending = .csr (.command w) :: rest →
    ∃ t, step s = .next t ∧
      (t.block.lastErr ≠ .ok → t = ({ s with pending := rest } : State).setLastErr t.block.lastErr)

/-- R253: the matrix of which command can report which code: a code stands in a command's row exactly when some state makes
the command report it; a word that is no command reports InvalidCommand. -/
def Obligations.ErrorMatrix : Prop :=
  (∀ (i : Instr) (e : ResultCode),
    e ∈ canReport i ↔ ∃ s t : State, exec i s = .next t ∧ t.block.lastErr = e) ∧
  (∀ (s : State) (w : Word) (e : DecodeError), decode w = .error e →
    runCommandWord w s = .next (s.setLastErr .invalidCommand))

/-- LAST_ERR keeps its value until the next CMD write (R254): host actions that are no CMD write and no reset leave it, and
change nothing else of the block but an ARG register. -/
def Obligations.LastErrKeptUntilNextCommand : Prop :=
  ∀ (s : State) (a : HostAction) (rest : List HostAction) (t : State),
    s.pending = a :: rest → a.quiet = true → step s = .next t →
    t.block = { s.block with arg := t.block.arg } ∧ t.params = s.params ∧ t.pending = rest

/-- R257: a FINALIZE that is malformed in range or phase reports the same code and has the same (missing) effect whatever
TAG_IN holds, so it never reveals whether the tag was right. -/
def Obligations.MalformedFinalizeHidesTheTag : Prop :=
  ∀ (s : State) (tag : Vector Byte 16) (t : State), exec .finalize s = .next t →
    t.block.lastErr ≠ .ok → t.block.lastErr ≠ .tagMismatch →
    exec .finalize { s with block := { s.block with tagIn := tag } } =
      .next { t with block := { t.block with tagIn := tag } }

/-- R203: on a mismatch FINALIZE raises TagMismatch with everything else unchanged, and repeating it raises TagMismatch
again. -/
def Obligations.TagMismatchKeepsEverything : Prop :=
  ∀ s : State,
    let T := Config.MAC s.block.macKey (macInput s.block.ad s.block.msg)
    s.block.phase = .opened → 0 ≤ (s.block.arg[2]).toInt →
    (s.block.arg[2]).toInt + s.block.msg.length ≤ (s.block.arg[1]).toNat →
    (s.block.arg[0]).toNat + (s.block.arg[1]).toNat ≤ s.params.hmemSize →
    s.block.tagInSet = true → T ≠ s.block.tagIn →
    exec .finalize s = .next (s.setLastErr .tagMismatch) ∧
    exec .finalize (s.setLastErr .tagMismatch) = .next (s.setLastErr .tagMismatch)

/-- R206: in decrypt mode a CMD write of FINALIZE writes no host byte at all unless the comparator gave 0 in that command. -/
def Obligations.NoPlaintextBeforeTheTagMatches : Prop :=
  ∀ (s : State) (rest : List HostAction), s.pending = .csr (.command 0x00000005) :: rest →
    s.block.tagInSet = true →
    ∃ t, step s = .next t ∧
      ((∃ x, Memory.read t.hmem x ≠ Memory.read s.hmem x) →
        comparator (Config.MAC s.block.macKey (macInput s.block.ad s.block.msg)) s.block.tagIn = 0)

/-! ## Phases -/

/-- R238: in DEAD every command except INIT and DISPOSE raises UseAfterDispose; DISPOSE reports OK, and INIT never reports
UseAfterDispose. -/
def Obligations.DeadEngineRunsOnlyInitAndDispose : Prop :=
  ∀ (i : Instr) (s : State), s.block.phase = .dead →
    (i ≠ .init → i ≠ .dispose → exec i s = .next (s.setLastErr .useAfterDispose)) ∧
    exec .dispose s = .next (s.setLastErr .ok) ∧
    (∃ t, exec .init s = .next t ∧ t.block.lastErr ≠ .useAfterDispose)

/-- R211: in FINAL, FINALIZE, UPDATE_BYTE, UPDATE_BLOCK and SET_TAG raise InvalidState; RESET and DISPOSE succeed, INIT is not
turned away for the phase, nor is GET_TAG where a tag is retrievable. -/
def Obligations.FinalPhaseAcceptsNoMoreInput : Prop :=
  ∀ (i : Instr) (s : State), s.block.phase = .finalized →
    (i = .finalize ∨ i = .updateByte ∨ i = .updateBlock ∨ i = .setTag →
      exec i s = .next (s.setLastErr .invalidState)) ∧
    (i = .reset ∨ i = .dispose → ∃ t, exec i s = .next t ∧ t.block.lastErr = .ok) ∧
    (i = .init ∨ (i = .getTag ∧ s.block.tagOutValid = true) →
      ∃ t, exec i s = .next t ∧ t.block.lastErr ≠ .invalidState)

/-- R32: a successful command moves PHASE as the transition table says, a raising one leaves it. The premise is the block's
invariant (I3 keeps a retrievable tag in FINAL). -/
def Obligations.PhaseTransitions : Prop :=
  ∀ (i : Instr) (s : State), s.block.Inv s.params → ∃ t, exec i s = .next t ∧
    (t.block.lastErr = .ok → phaseMoves i s.block.phase t.block.phase = true) ∧
    (t.block.lastErr ≠ .ok → t.block.phase = s.block.phase)

/-! ## Invariants -/

/-- The invariant holds at reset. -/
def Obligations.InvariantHoldsAtReset : Prop := State.reset.Inv

/-- R48, with host memory in canonical form and the parameters in their ranges (R7): the invariant holds at power-on under
every admissible choice of parameters, and every step keeps it. -/
def Obligations.InvariantKeptByEveryStep : Prop :=
  (∀ p : Config.Params, p.wf = true → (State.powerOn p).Inv) ∧
  (∀ s t : State, s.Inv → step s = .next t → t.Inv)

/-! ## The datapath -/

/-- R171: pad16(n) lies in 0..15, and n + pad16(n) is the least multiple of 16 that is at least n. -/
def Obligations.PadderReachesTheNextMultiple : Prop :=
  ∀ n : Nat, pad16 n ≤ 15 ∧ (n + pad16 n) % 16 = 0 ∧ (∀ m, n ≤ m → m % 16 = 0 → n + pad16 n ≤ m) ∧
    pad16 n = (16 - (n % 16)) % 16

/-- R172: LE64(n) has 8 bytes, byte i is (n >> 8i) mod 256, and for n below 2^64 the bytes, least significant first, make n. -/
def Obligations.LengthEncoderIsLittleEndian : Prop :=
  ∀ n : Nat, (le64 n).length = 8 ∧
    (∀ (i : Nat) (h : i < (le64 n).length), (le64 n)[i].toNat = n / 2 ^ (8 * i) % 256) ∧
    (n < 2 ^ 64 → (le64 n).foldr (fun b high => b.toNat + 256 * high) 0 = n)

/-- R175: the layout of mac_input(A, C) byte range by byte range, and its length, a multiple of 16 and at least 16. -/
def Obligations.MacInputLayout : Prop :=
  ∀ A C : List Byte,
    let a := A.length
    let c := C.length
    let L := a + pad16 a + c + pad16 c + 16
    let M := macInput A C
    M.length = L ∧ L % 16 = 0 ∧ 16 ≤ L ∧
    M.take a = A ∧
    (M.drop a).take (pad16 a) = List.replicate (pad16 a) 0 ∧
    (M.drop (a + pad16 a)).take c = C ∧
    (M.drop (a + pad16 a + c)).take (pad16 c) = List.replicate (pad16 c) 0 ∧
    (M.drop (L - 16)).take 8 = le64 a ∧
    M.drop (L - 8) = le64 c ∧
    macInput [] [] = List.replicate 16 0

/-- The authenticity contract of the MAC input (R173, R174, R208: a change to the ciphertext or the AD changes mac_input):
for lengths LE64 can encode, equal MAC inputs come from equal AD and equal ciphertext. -/
def Obligations.MacInputIsInjective : Prop :=
  ∀ A C A' C' : List Byte, A.length < 2 ^ 64 → C.length < 2 ^ 64 → A'.length < 2 ^ 64 → C'.length < 2 ^ 64 →
    macInput A C = macInput A' C' → A = A' ∧ C = C'

/-- R201: a bit of the accumulator is set exactly where some byte pair differs in that bit, and it is 0 exactly when the two
tags are equal. -/
def Obligations.ComparatorMatchesExactly : Prop :=
  ∀ T tagIn : Vector Byte 16,
    (∀ j : Nat, (comparator T tagIn).getLsbD j = true ↔ ∃ i : Fin 16, (T[i] ^^^ tagIn[i]).getLsbD j = true) ∧
    (comparator T tagIn = 0 ↔ T = tagIn)

/-- Apply is an involution (R180). -/
def Obligations.ApplyIsAnInvolution : Prop :=
  ∀ (b : Block) (m : List Byte), applyKeystream b (applyKeystream b m) = m

/-- R134, R135: the derivation machine run from KD0 gives KS(KEY, NONCE, 0, 32), and encrypting 32 zero bytes gives the same
key. -/
def Obligations.MacKeyIsTheFirstKeystreamBytes : Prop :=
  ∀ (key : Vector Byte 32) (nonce : List Byte),
    deriveMacKey key nonce = Config.KS key nonce 0 32 ∧
    Vector.zipWith (· ^^^ ·) (zeros 32) (Config.KS key nonce 0 32) = deriveMacKey key nonce

/-- R8: under admissible parameters, a message MSG can hold needs only block counters below 2^CTR_W, and every length MSG or AD
can have is encodable by LE64. -/
def Obligations.BlockCounterNeverWraps : Prop :=
  ∀ (s : State), s.Inv →
    (s.block.msgLen + (Config.ksBlock - 1)) / Config.ksBlock < 2 ^ s.params.ctrW ∧
    s.block.msgLen < 2 ^ 64 ∧ s.block.adLen < 2 ^ 64

/-! ## The construction as a whole -/

/-- The round trip (R180, with R195 and R200). If FINALIZE encrypts in state `s`, then in any open decrypt state with the same
KEY, NONCE, MK and AD, whose MSG is the ciphertext found in host memory and whose TAG_IN is the tag produced, and whose output
buffer is in range, FINALIZE succeeds and writes the plaintext. -/
def Obligations.DecryptAcceptsWhatEncryptProduced : Prop :=
  ∀ s t u : State, Memory.wf s.hmem = true → Memory.wf u.hmem = true →
    s.block.tagInSet = false → exec .finalize s = .next t → t.block.lastErr = .ok →
    u.block.phase = .opened → u.block.tagInSet = true →
    u.block.key = s.block.key → u.block.nonce = s.block.nonce → u.block.macKey = s.block.macKey →
    u.block.ad = s.block.ad →
    u.block.msg = (memRead t.hmem ((s.block.arg[0]).toNat + (s.block.arg[2]).toInt.toNat) s.block.msg.length).toList →
    u.block.tagIn = t.block.tagOut →
    0 ≤ (u.block.arg[2]).toInt → (u.block.arg[2]).toInt + s.block.msg.length ≤ (u.block.arg[1]).toNat →
    (u.block.arg[0]).toNat + (u.block.arg[1]).toNat ≤ u.params.hmemSize →
    ∃ v, exec .finalize u = .next v ∧ v.block.lastErr = .ok ∧
      (memRead v.hmem ((u.block.arg[0]).toNat + (u.block.arg[2]).toInt.toNat) s.block.msg.length).toList = s.block.msg

/-- From R158 and R159: over any run of update commands and quiet host actions (no other command between), MSG grows by exactly
the concatenation of the pieces the successful updates append, and the engine's other state elements stay. -/
def Obligations.MessageIsTheConcatenationOfUpdates : Prop :=
  ∀ (s t : State) (P : List Byte), Feeds s P t →
    t.block = { s.block with msg := s.block.msg ++ P, lastErr := t.block.lastErr, arg := t.block.arg } ∧
    t.params = s.params

/-- R158: two engines that differ at most in LAST_ERR, the ARG registers and what the host does next, fed the same byte string
in any two splits over successful updates, have the same MSG, and a FINALIZE with the same operands on the same host memory has
the same output bytes, tag, outcome and engine state. -/
def Obligations.StreamingEquivalence : Prop :=
  ∀ (s₁ s₂ t₁ t₂ : State) (P : List Byte),
    s₂.params = s₁.params →
    s₂.block = { s₁.block with lastErr := s₂.block.lastErr, arg := s₂.block.arg } →
    Feeds s₁ P t₁ → Feeds s₂ P t₂ →
    t₁.block.msg = t₂.block.msg ∧
    ∀ (args : Vector Word 8) (m : Memory),
      ∃ u₁ u₂,
        exec .finalize { t₁ with hmem := m, block := { t₁.block with arg := args } } = .next u₁ ∧
        exec .finalize { t₂ with hmem := m, block := { t₂.block with arg := args } } = .next u₂ ∧
        u₁.block = u₂.block ∧ u₁.hmem = u₂.hmem

/-- A successful INIT leaves no trace of the previous engine (R137): whatever the block held before, with the same operands,
parameters and host memory the resulting state is the same. -/
def Obligations.InitLeavesNoTrace : Prop :=
  ∀ (s t : State) (b : Block), b.arg = s.block.arg → exec .init s = .next t → t.block.lastErr = .ok →
    exec .init { s with block := b } = .next t

/-- R232: after RESET the engine has the same MK and the same keystream, so two messages of equal length finalized in the two
cycles differ as their plaintexts do. -/
def Obligations.ResetReusesTheKeystream : Prop :=
  ∀ s : State, s.block.phase ≠ .dead → ∃ t, exec .reset s = .next t ∧ t.block.macKey = s.block.macKey ∧
    ∀ m m' : List Byte, m.length = m'.length →
      List.zipWith (· ^^^ ·) (applyKeystream s.block m) (applyKeystream t.block m') =
        List.zipWith (· ^^^ ·) m m'

/-- Confidentiality (R42): from two machines that look the same to the host, a step leads to machines that look the same to
the host, whatever KEY, NONCE, MK, AD, TAG_IN, TAG_OUT and the bytes of MSG are; for FINALIZE and GET_TAG the values R42 lets
out, the output bytes, the tag and the outcome of the comparison, are assumed the same. -/
def Obligations.SecretsReachTheHostOnlyAsDisclosed : Prop :=
  ∀ s t : State, SameToHost s t →
    (∀ w rest, s.pending = .csr (.command w) :: rest → (decode w = .ok .finalize ∨ decode w = .ok .getTag) →
      SameDisclosed s.block t.block) →
    (∀ s', step s = .next s' → ∃ t', step t = .next t' ∧ SameToHost s' t') ∧
    (∀ r, step s = .fault r → step t = .fault r) ∧
    (∀ r, step s = .refused r → step t = .refused r)

/-- Instances share no state (R262): an action on one instance changes no other instance and no number of instances, and its
effect on its own instance and on host memory does not depend on the others. -/
def Obligations.InstancesShareNoState : Prop :=
  ∀ (p q : Platform) (k : Fin p.orchs.length) (a : HostAction), p.act k a = .next q →
    q.orchs.length = p.orchs.length ∧
    (∀ j : Nat, j ≠ k.val → q.orchs[j]? = p.orchs[j]?) ∧
    (∃ s, hostAction a (p.view p.orchs[k]) = .next s ∧
      q.orchs[k.val]? = some { params := s.params, block := s.block } ∧ q.hmem = s.hmem)
end

