-- ==== Sys2Proof/Laws/Memory.lean ====
section
/-! SUPPORT. Laws of host memory: a read after a write, and that every memory operation keeps the canonical form. -/

namespace Sys2Proof.Machine

@[simp] theorem Memory.read_nil (x : Nat) : Memory.read [] x = Memory.background := rfl

/-- A byte below every listed address reads as the background. -/
theorem Memory.read_of_below {m : Memory} {x : Nat} (h : ∀ c ∈ m, x < c.1) :
    Memory.read m x = Memory.background := by
  induction m with
  | nil => rfl
  | cons c m ih =>
    obtain ⟨a, b⟩ := c
    have ha : x < a := h (a, b) (by simp)
    simp only [Memory.read, if_neg (Nat.ne_of_gt ha)]
    exact ih fun c hc => h c (by simp [hc])

theorem Memory.wf_cons {a : Nat} {b : Byte} {m : Memory} :
    Memory.wf ((a, b) :: m) = true ↔
      b ≠ Memory.background ∧ (∀ c ∈ m, a < c.1) ∧ Memory.wf m = true := by
  simp [Memory.wf, and_assoc]

/-- A read after a write, of any address (canonical memory). -/
theorem Memory.read_write {m : Memory} (hm : Memory.wf m = true) (x y : Nat) (v : Byte) :
    Memory.read (Memory.write m x v) y = if y = x then v else Memory.read m y := by
  induction m with
  | nil =>
    simp only [Memory.write]
    split
    · rename_i hv; rw [hv]; split <;> rfl
    · simp [Memory.read, eq_comm]
  | cons c m ih =>
    obtain ⟨a, b⟩ := c
    obtain ⟨hb, hlt, hwf⟩ := Memory.wf_cons.1 hm
    simp only [Memory.write]
    split
    · rename_i hxa
      have hbelow : ∀ c ∈ (a, b) :: m, x < c.1 := by
        rintro c hc
        rcases List.mem_cons.1 hc with rfl | hc
        · exact hxa
        · exact lt_trans hxa (hlt c hc)
      split
      · rename_i hv
        split
        · rename_i hy; subst hy; rw [hv, Memory.read_of_below hbelow]
        · rfl
      · by_cases hy : y = x
        · simp [Memory.read, hy]
        · have : ¬ x = y := fun h => hy h.symm
          simp [Memory.read, hy, this]
    · split
      · rename_i hxa
        subst hxa
        split
        · rename_i hv
          by_cases hy : y = x
          · simp [hy, hv, Memory.read_of_below hlt]
          · have : ¬ x = y := fun h => hy h.symm
            simp [Memory.read, hy, this]
        · by_cases hy : y = x
          · simp [Memory.read, hy]
          · have : ¬ x = y := fun h => hy h.symm
            simp [Memory.read, hy, this]
      · simp only [Memory.read]
        by_cases hay : a = y
        · subst hay
          have : ¬ a = x := by omega
          simp [this]
        · simp [hay, ih hwf]

/-- The listed addresses after a write: those before, and perhaps the written one. -/
theorem Memory.mem_write {m : Memory} {x : Nat} {v : Byte} {c : Host.Cell} (h : c ∈ Memory.write m x v) :
    c.1 = x ∨ c ∈ m := by
  induction m with
  | nil =>
    simp only [Memory.write] at h
    split at h <;> simp_all
  | cons d m ih =>
    obtain ⟨a, b⟩ := d
    simp only [Memory.write] at h
    split at h
    · split at h
      · exact .inr h
      · rcases List.mem_cons.1 h with rfl | h
        · exact .inl rfl
        · exact .inr h
    · split at h
      · split at h
        · exact .inr (by simp [h])
        · rcases List.mem_cons.1 h with rfl | h
          · exact .inl rfl
          · exact .inr (by simp [h])
      · rcases List.mem_cons.1 h with rfl | h
        · exact .inr (by simp)
        · rcases ih h with h | h
          · exact .inl h
          · exact .inr (by simp [h])

/-- A write keeps the canonical form. -/
theorem Memory.wf_write {m : Memory} (hm : Memory.wf m = true) (x : Nat) (v : Byte) :
    Memory.wf (Memory.write m x v) = true := by
  induction m with
  | nil =>
    simp only [Memory.write]
    split
    · rfl
    · rename_i hv; simp [Memory.wf, hv]
  | cons c m ih =>
    obtain ⟨a, b⟩ := c
    obtain ⟨hb, hlt, hwf⟩ := Memory.wf_cons.1 hm
    simp only [Memory.write]
    split
    · rename_i hxa
      split
      · exact hm
      · rename_i hv
        refine Memory.wf_cons.2 ⟨hv, ?_, hm⟩
        rintro c hc
        rcases List.mem_cons.1 hc with rfl | hc
        · exact hxa
        · exact lt_trans hxa (hlt c hc)
    · split
      · rename_i hxa
        subst hxa
        split
        · exact hwf
        · rename_i hv; exact Memory.wf_cons.2 ⟨hv, hlt, hwf⟩
      · rename_i hxa hne
        refine Memory.wf_cons.2 ⟨hb, ?_, ih hwf⟩
        intro c hc
        rcases Memory.mem_write hc with h | h
        · omega
        · exact hlt c h

/-- A write below the size keeps every listed address below it. -/
theorem Memory.inRange_write {size : Nat} {m : Memory} (hm : Memory.inRange size m = true) {x : Nat}
    (hx : x < size) (v : Byte) : Memory.inRange size (Memory.write m x v) = true := by
  simp only [Memory.inRange, List.all_eq_true, decide_eq_true_eq] at hm ⊢
  intro c hc
  rcases Memory.mem_write hc with h | h
  · omega
  · exact hm c h

/-- `MemWrite` keeps the canonical form. -/
theorem memWrite_wf {m : Memory} (hm : Memory.wf m = true) (addr : Nat) (vs : List Byte) :
    Memory.wf (memWrite m addr vs) = true := by
  induction vs generalizing m addr with
  | nil => exact hm
  | cons v vs ih => exact ih (Memory.wf_write hm addr v) (addr + 1)

/-- `MemWrite` inside host memory keeps every listed address inside it. -/
theorem memWrite_inRange {size : Nat} {m : Memory} (hm : Memory.inRange size m = true) (addr : Nat)
    (vs : List Byte) (h : addr + vs.length ≤ size) : Memory.inRange size (memWrite m addr vs) = true := by
  induction vs generalizing m addr with
  | nil => exact hm
  | cons v vs ih =>
    simp only [List.length_cons] at h
    exact ih (Memory.inRange_write hm (by omega) v) (addr + 1) (by omega)

@[simp] theorem memWrite_nil (m : Memory) (addr : Nat) : memWrite m addr [] = m := rfl

/-- `MemWrite` leaves every byte outside the written range alone. -/
theorem memWrite_read_outside {m : Memory} (hm : Memory.wf m = true) {addr : Nat} {vs : List Byte} {x : Nat}
    (h : x < addr ∨ addr + vs.length ≤ x) : Memory.read (memWrite m addr vs) x = Memory.read m x := by
  induction vs generalizing m addr with
  | nil => rfl
  | cons v vs ih =>
    simp only [List.length_cons] at h
    have hne : x ≠ addr := by omega
    show Memory.read (memWrite (Memory.write m addr v) (addr + 1) vs) x = _
    rw [ih (Memory.wf_write hm addr v) (by omega), Memory.read_write hm, if_neg hne]

/-- `MemWrite` puts byte i of the string at addr + i. -/
theorem memWrite_read_inside {m : Memory} (hm : Memory.wf m = true) {addr : Nat} {vs : List Byte} {i : Nat}
    (h : i < vs.length) : Memory.read (memWrite m addr vs) (addr + i) = vs[i] := by
  induction vs generalizing m addr i with
  | nil => simp at h
  | cons v vs ih =>
    show Memory.read (memWrite (Memory.write m addr v) (addr + 1) vs) (addr + i) = _
    cases i with
    | zero =>
      rw [memWrite_read_outside (Memory.wf_write hm addr v) (by omega), Memory.read_write hm]
      simp
    | succ i =>
      have := ih (Memory.wf_write hm addr v) (addr := addr + 1) (i := i) (by simpa using h)
      rw [show addr + (i + 1) = addr + 1 + i by omega, this]
      simp

/-- `MemRead` gives the bytes in address order. -/
@[simp] theorem memRead_getElem (m : Memory) (addr n i : Nat) (h : i < n) :
    (memRead m addr n)[i] = Memory.read m (addr + i) := by
  simp [memRead]

/-- `MemRead` depends on the bytes of its range alone. -/
theorem memRead_congr {m m' : Memory} {addr n : Nat}
    (h : ∀ i, i < n → Memory.read m (addr + i) = Memory.read m' (addr + i)) :
    memRead m addr n = memRead m' addr n := by
  ext i hi
  simp [h i hi]

end Sys2Proof.Machine
end

