-- ==== Sys2Proof/Laws/State.lean ====
section
/-! SUPPORT. One lemma per field per update of the state, so that no later proof unfolds a record update. -/

namespace Sys2Proof.Machine

/-- AD_LEN and MSG_LEN are the lengths of AD and MSG (R36, R37). -/
@[simp] theorem Block.adLen_eq (b : Block) : b.adLen = b.ad.length := rfl
@[simp] theorem Block.msgLen_eq (b : Block) : b.msgLen = b.msg.length := rfl

section Fields
variable (s : State) (e : ResultCode) (i : Fin 8) (w : Word) (bytes : List Byte)

@[simp] theorem State.setLastErr_params : (s.setLastErr e).params = s.params := rfl
@[simp] theorem State.setLastErr_hmem : (s.setLastErr e).hmem = s.hmem := rfl
@[simp] theorem State.setLastErr_pending : (s.setLastErr e).pending = s.pending := rfl
@[simp] theorem State.setLastErr_readData : (s.setLastErr e).readData = s.readData := rfl
@[simp] theorem State.setLastErr_block_phase : (s.setLastErr e).block.phase = s.block.phase := rfl
@[simp] theorem State.setLastErr_block_key : (s.setLastErr e).block.key = s.block.key := rfl
@[simp] theorem State.setLastErr_block_nonce : (s.setLastErr e).block.nonce = s.block.nonce := rfl
@[simp] theorem State.setLastErr_block_macKey : (s.setLastErr e).block.macKey = s.block.macKey := rfl
@[simp] theorem State.setLastErr_block_ad : (s.setLastErr e).block.ad = s.block.ad := rfl
@[simp] theorem State.setLastErr_block_msg : (s.setLastErr e).block.msg = s.block.msg := rfl
@[simp] theorem State.setLastErr_block_tagIn : (s.setLastErr e).block.tagIn = s.block.tagIn := rfl
@[simp] theorem State.setLastErr_block_tagInSet : (s.setLastErr e).block.tagInSet = s.block.tagInSet := rfl
@[simp] theorem State.setLastErr_block_tagOut : (s.setLastErr e).block.tagOut = s.block.tagOut := rfl
@[simp] theorem State.setLastErr_block_tagOutValid : (s.setLastErr e).block.tagOutValid = s.block.tagOutValid := rfl
@[simp] theorem State.setLastErr_block_lastErr : (s.setLastErr e).block.lastErr = e := rfl
@[simp] theorem State.setLastErr_block_arg : (s.setLastErr e).block.arg = s.block.arg := rfl

@[simp] theorem State.writeArg_params : (s.writeArg i w).params = s.params := rfl
@[simp] theorem State.writeArg_hmem : (s.writeArg i w).hmem = s.hmem := rfl
@[simp] theorem State.writeArg_pending : (s.writeArg i w).pending = s.pending := rfl
@[simp] theorem State.writeArg_readData : (s.writeArg i w).readData = s.readData := rfl
@[simp] theorem State.writeArg_block_phase : (s.writeArg i w).block.phase = s.block.phase := rfl
@[simp] theorem State.writeArg_block_key : (s.writeArg i w).block.key = s.block.key := rfl
@[simp] theorem State.writeArg_block_nonce : (s.writeArg i w).block.nonce = s.block.nonce := rfl
@[simp] theorem State.writeArg_block_macKey : (s.writeArg i w).block.macKey = s.block.macKey := rfl
@[simp] theorem State.writeArg_block_ad : (s.writeArg i w).block.ad = s.block.ad := rfl
@[simp] theorem State.writeArg_block_msg : (s.writeArg i w).block.msg = s.block.msg := rfl
@[simp] theorem State.writeArg_block_tagIn : (s.writeArg i w).block.tagIn = s.block.tagIn := rfl
@[simp] theorem State.writeArg_block_tagInSet : (s.writeArg i w).block.tagInSet = s.block.tagInSet := rfl
@[simp] theorem State.writeArg_block_tagOut : (s.writeArg i w).block.tagOut = s.block.tagOut := rfl
@[simp] theorem State.writeArg_block_tagOutValid : (s.writeArg i w).block.tagOutValid = s.block.tagOutValid := rfl
@[simp] theorem State.writeArg_block_lastErr : (s.writeArg i w).block.lastErr = s.block.lastErr := rfl
@[simp] theorem State.writeArg_block_arg : (s.writeArg i w).block.arg = s.block.arg.set i w := rfl

@[simp] theorem State.appendMsg_params : (s.appendMsg bytes).params = s.params := rfl
@[simp] theorem State.appendMsg_hmem : (s.appendMsg bytes).hmem = s.hmem := rfl
@[simp] theorem State.appendMsg_pending : (s.appendMsg bytes).pending = s.pending := rfl
@[simp] theorem State.appendMsg_readData : (s.appendMsg bytes).readData = s.readData := rfl
@[simp] theorem State.appendMsg_block_phase : (s.appendMsg bytes).block.phase = s.block.phase := rfl
@[simp] theorem State.appendMsg_block_key : (s.appendMsg bytes).block.key = s.block.key := rfl
@[simp] theorem State.appendMsg_block_nonce : (s.appendMsg bytes).block.nonce = s.block.nonce := rfl
@[simp] theorem State.appendMsg_block_macKey : (s.appendMsg bytes).block.macKey = s.block.macKey := rfl
@[simp] theorem State.appendMsg_block_ad : (s.appendMsg bytes).block.ad = s.block.ad := rfl
@[simp] theorem State.appendMsg_block_msg : (s.appendMsg bytes).block.msg = s.block.msg ++ bytes := rfl
@[simp] theorem State.appendMsg_block_tagIn : (s.appendMsg bytes).block.tagIn = s.block.tagIn := rfl
@[simp] theorem State.appendMsg_block_tagInSet : (s.appendMsg bytes).block.tagInSet = s.block.tagInSet := rfl
@[simp] theorem State.appendMsg_block_tagOut : (s.appendMsg bytes).block.tagOut = s.block.tagOut := rfl
@[simp] theorem State.appendMsg_block_tagOutValid : (s.appendMsg bytes).block.tagOutValid = s.block.tagOutValid := rfl
@[simp] theorem State.appendMsg_block_lastErr : (s.appendMsg bytes).block.lastErr = s.block.lastErr := rfl
@[simp] theorem State.appendMsg_block_arg : (s.appendMsg bytes).block.arg = s.block.arg := rfl

@[simp] theorem State.returnData_params : (s.returnData w).params = s.params := rfl
@[simp] theorem State.returnData_block : (s.returnData w).block = s.block := rfl
@[simp] theorem State.returnData_hmem : (s.returnData w).hmem = s.hmem := rfl
@[simp] theorem State.returnData_pending : (s.returnData w).pending = s.pending := rfl
@[simp] theorem State.returnData_readData : (s.returnData w).readData = some w := rfl

@[simp] theorem State.commandNext_params : (s.commandNext w).params = s.params := rfl
@[simp] theorem State.commandNext_block : (s.commandNext w).block = s.block := rfl
@[simp] theorem State.commandNext_hmem : (s.commandNext w).hmem = s.hmem := rfl
@[simp] theorem State.commandNext_pending : (s.commandNext w).pending = .csr (.command w) :: s.pending := rfl
@[simp] theorem State.commandNext_readData : (s.commandNext w).readData = s.readData := rfl

@[simp] theorem assertReset_params : (assertReset s).params = s.params := rfl
@[simp] theorem assertReset_block : (assertReset s).block = Block.powerOn s.params := rfl
@[simp] theorem assertReset_hmem : (assertReset s).hmem = s.hmem := rfl
@[simp] theorem assertReset_pending : (assertReset s).pending = s.pending := rfl
@[simp] theorem assertReset_readData : (assertReset s).readData = s.readData := rfl

@[simp] theorem initEffect_params : (initEffect s).params = s.params := rfl
@[simp] theorem initEffect_hmem : (initEffect s).hmem = s.hmem := rfl
@[simp] theorem initEffect_pending : (initEffect s).pending = s.pending := rfl
@[simp] theorem initEffect_readData : (initEffect s).readData = s.readData := rfl

@[simp] theorem setTagEffect_params : (setTagEffect s).params = s.params := rfl
@[simp] theorem setTagEffect_hmem : (setTagEffect s).hmem = s.hmem := rfl
@[simp] theorem setTagEffect_pending : (setTagEffect s).pending = s.pending := rfl
@[simp] theorem setTagEffect_readData : (setTagEffect s).readData = s.readData := rfl

@[simp] theorem resetEffect_params : (resetEffect s).params = s.params := rfl
@[simp] theorem resetEffect_hmem : (resetEffect s).hmem = s.hmem := rfl
@[simp] theorem resetEffect_pending : (resetEffect s).pending = s.pending := rfl
@[simp] theorem resetEffect_readData : (resetEffect s).readData = s.readData := rfl

@[simp] theorem zeroize_params : (zeroize s).params = s.params := rfl
@[simp] theorem zeroize_hmem : (zeroize s).hmem = s.hmem := rfl
@[simp] theorem zeroize_pending : (zeroize s).pending = s.pending := rfl
@[simp] theorem zeroize_readData : (zeroize s).readData = s.readData := rfl

@[simp] theorem encryptPath_params : (encryptPath s).params = s.params := rfl
@[simp] theorem encryptPath_pending : (encryptPath s).pending = s.pending := rfl
@[simp] theorem encryptPath_readData : (encryptPath s).readData = s.readData := rfl
@[simp] theorem encryptPath_hmem : (encryptPath s).hmem = memWrite s.hmem (finalizeOperand s.block).start (applyKeystream s.block s.block.msg) := rfl

@[simp] theorem decryptPath_params : (decryptPath s).params = s.params := rfl
@[simp] theorem decryptPath_pending : (decryptPath s).pending = s.pending := rfl
@[simp] theorem decryptPath_readData : (decryptPath s).readData = s.readData := rfl
@[simp] theorem decryptPath_hmem : (decryptPath s).hmem = memWrite s.hmem (finalizeOperand s.block).start (applyKeystream s.block s.block.msg) := rfl

@[simp] theorem updateBlockEffect_params : (updateBlockEffect s).params = s.params := rfl
@[simp] theorem updateBlockEffect_pending : (updateBlockEffect s).pending = s.pending := rfl
@[simp] theorem updateBlockEffect_readData : (updateBlockEffect s).readData = s.readData := rfl
@[simp] theorem updateBlockEffect_block_phase : (updateBlockEffect s).block.phase = s.block.phase := rfl
@[simp] theorem updateBlockEffect_block_key : (updateBlockEffect s).block.key = s.block.key := rfl
@[simp] theorem updateBlockEffect_block_nonce : (updateBlockEffect s).block.nonce = s.block.nonce := rfl
@[simp] theorem updateBlockEffect_block_macKey : (updateBlockEffect s).block.macKey = s.block.macKey := rfl
@[simp] theorem updateBlockEffect_block_ad : (updateBlockEffect s).block.ad = s.block.ad := rfl
@[simp] theorem updateBlockEffect_block_msg : (updateBlockEffect s).block.msg = s.block.msg ++ updateBlockData s := rfl
@[simp] theorem updateBlockEffect_block_tagIn : (updateBlockEffect s).block.tagIn = s.block.tagIn := rfl
@[simp] theorem updateBlockEffect_block_tagInSet : (updateBlockEffect s).block.tagInSet = s.block.tagInSet := rfl
@[simp] theorem updateBlockEffect_block_tagOut : (updateBlockEffect s).block.tagOut = s.block.tagOut := rfl
@[simp] theorem updateBlockEffect_block_tagOutValid : (updateBlockEffect s).block.tagOutValid = s.block.tagOutValid := rfl
@[simp] theorem updateBlockEffect_block_lastErr : (updateBlockEffect s).block.lastErr = s.block.lastErr := rfl
@[simp] theorem updateBlockEffect_block_arg : (updateBlockEffect s).block.arg = s.block.arg := rfl

@[simp] theorem getTagEffect_params : (getTagEffect s).params = s.params := rfl
@[simp] theorem getTagEffect_block : (getTagEffect s).block = s.block := rfl
@[simp] theorem getTagEffect_pending : (getTagEffect s).pending = s.pending := rfl
@[simp] theorem getTagEffect_readData : (getTagEffect s).readData = s.readData := rfl

@[simp] theorem initEffect_block_phase : (initEffect s).block.phase = .opened := rfl
@[simp] theorem initEffect_block_key : (initEffect s).block.key = memRead s.hmem (initOperands s.block).key.addr 32 := rfl
@[simp] theorem initEffect_block_nonce : (initEffect s).block.nonce = (memRead s.hmem (initOperands s.block).nonce.addr s.params.nonceLen).toList := rfl
@[simp] theorem initEffect_block_macKey : (initEffect s).block.macKey = deriveMacKey (memRead s.hmem (initOperands s.block).key.addr 32) (memRead s.hmem (initOperands s.block).nonce.addr s.params.nonceLen).toList := rfl
@[simp] theorem initEffect_block_ad : (initEffect s).block.ad = (memRead s.hmem (initOperands s.block).ad.addr (initOperands s.block).ad.bufLen).toList := rfl
@[simp] theorem initEffect_block_msg : (initEffect s).block.msg = [] := rfl
@[simp] theorem initEffect_block_tagIn : (initEffect s).block.tagIn = zeros 16 := rfl
@[simp] theorem initEffect_block_tagInSet : (initEffect s).block.tagInSet = false := rfl
@[simp] theorem initEffect_block_tagOut : (initEffect s).block.tagOut = zeros 16 := rfl
@[simp] theorem initEffect_block_tagOutValid : (initEffect s).block.tagOutValid = false := rfl
@[simp] theorem initEffect_block_lastErr : (initEffect s).block.lastErr = s.block.lastErr := rfl
@[simp] theorem initEffect_block_arg : (initEffect s).block.arg = s.block.arg := rfl

@[simp] theorem setTagEffect_block_phase : (setTagEffect s).block.phase = s.block.phase := rfl
@[simp] theorem setTagEffect_block_key : (setTagEffect s).block.key = s.block.key := rfl
@[simp] theorem setTagEffect_block_nonce : (setTagEffect s).block.nonce = s.block.nonce := rfl
@[simp] theorem setTagEffect_block_macKey : (setTagEffect s).block.macKey = s.block.macKey := rfl
@[simp] theorem setTagEffect_block_ad : (setTagEffect s).block.ad = s.block.ad := rfl
@[simp] theorem setTagEffect_block_msg : (setTagEffect s).block.msg = s.block.msg := rfl
@[simp] theorem setTagEffect_block_tagIn : (setTagEffect s).block.tagIn = memRead s.hmem (setTagOperand s.block).addr 16 := rfl
@[simp] theorem setTagEffect_block_tagInSet : (setTagEffect s).block.tagInSet = true := rfl
@[simp] theorem setTagEffect_block_tagOut : (setTagEffect s).block.tagOut = s.block.tagOut := rfl
@[simp] theorem setTagEffect_block_tagOutValid : (setTagEffect s).block.tagOutValid = s.block.tagOutValid := rfl
@[simp] theorem setTagEffect_block_lastErr : (setTagEffect s).block.lastErr = s.block.lastErr := rfl
@[simp] theorem setTagEffect_block_arg : (setTagEffect s).block.arg = s.block.arg := rfl

@[simp] theorem resetEffect_block_phase : (resetEffect s).block.phase = .opened := rfl
@[simp] theorem resetEffect_block_key : (resetEffect s).block.key = s.block.key := rfl
@[simp] theorem resetEffect_block_nonce : (resetEffect s).block.nonce = s.block.nonce := rfl
@[simp] theorem resetEffect_block_macKey : (resetEffect s).block.macKey = s.block.macKey := rfl
@[simp] theorem resetEffect_block_ad : (resetEffect s).block.ad = s.block.ad := rfl
@[simp] theorem resetEffect_block_msg : (resetEffect s).block.msg = [] := rfl
@[simp] theorem resetEffect_block_tagIn : (resetEffect s).block.tagIn = zeros 16 := rfl
@[simp] theorem resetEffect_block_tagInSet : (resetEffect s).block.tagInSet = false := rfl
@[simp] theorem resetEffect_block_tagOut : (resetEffect s).block.tagOut = zeros 16 := rfl
@[simp] theorem resetEffect_block_tagOutValid : (resetEffect s).block.tagOutValid = false := rfl
@[simp] theorem resetEffect_block_lastErr : (resetEffect s).block.lastErr = s.block.lastErr := rfl
@[simp] theorem resetEffect_block_arg : (resetEffect s).block.arg = s.block.arg := rfl

@[simp] theorem zeroize_block_phase : (zeroize s).block.phase = .dead := rfl
@[simp] theorem zeroize_block_key : (zeroize s).block.key = zeros 32 := rfl
@[simp] theorem zeroize_block_nonce : (zeroize s).block.nonce = List.replicate s.params.nonceLen 0 := rfl
@[simp] theorem zeroize_block_macKey : (zeroize s).block.macKey = zeros 32 := rfl
@[simp] theorem zeroize_block_ad : (zeroize s).block.ad = [] := rfl
@[simp] theorem zeroize_block_msg : (zeroize s).block.msg = [] := rfl
@[simp] theorem zeroize_block_tagIn : (zeroize s).block.tagIn = zeros 16 := rfl
@[simp] theorem zeroize_block_tagInSet : (zeroize s).block.tagInSet = false := rfl
@[simp] theorem zeroize_block_tagOut : (zeroize s).block.tagOut = zeros 16 := rfl
@[simp] theorem zeroize_block_tagOutValid : (zeroize s).block.tagOutValid = false := rfl
@[simp] theorem zeroize_block_lastErr : (zeroize s).block.lastErr = s.block.lastErr := rfl
@[simp] theorem zeroize_block_arg : (zeroize s).block.arg = s.block.arg := rfl

@[simp] theorem encryptPath_block_phase : (encryptPath s).block.phase = .finalized := rfl
@[simp] theorem encryptPath_block_key : (encryptPath s).block.key = s.block.key := rfl
@[simp] theorem encryptPath_block_nonce : (encryptPath s).block.nonce = s.block.nonce := rfl
@[simp] theorem encryptPath_block_macKey : (encryptPath s).block.macKey = s.block.macKey := rfl
@[simp] theorem encryptPath_block_ad : (encryptPath s).block.ad = s.block.ad := rfl
@[simp] theorem encryptPath_block_msg : (encryptPath s).block.msg = [] := rfl
@[simp] theorem encryptPath_block_tagIn : (encryptPath s).block.tagIn = s.block.tagIn := rfl
@[simp] theorem encryptPath_block_tagInSet : (encryptPath s).block.tagInSet = s.block.tagInSet := rfl
@[simp] theorem encryptPath_block_tagOut : (encryptPath s).block.tagOut = computeTag s.block (applyKeystream s.block s.block.msg) := rfl
@[simp] theorem encryptPath_block_tagOutValid : (encryptPath s).block.tagOutValid = true := rfl
@[simp] theorem encryptPath_block_lastErr : (encryptPath s).block.lastErr = s.block.lastErr := rfl
@[simp] theorem encryptPath_block_arg : (encryptPath s).block.arg = s.block.arg := rfl

@[simp] theorem decryptPath_block_phase : (decryptPath s).block.phase = .finalized := rfl
@[simp] theorem decryptPath_block_key : (decryptPath s).block.key = s.block.key := rfl
@[simp] theorem decryptPath_block_nonce : (decryptPath s).block.nonce = s.block.nonce := rfl
@[simp] theorem decryptPath_block_macKey : (decryptPath s).block.macKey = s.block.macKey := rfl
@[simp] theorem decryptPath_block_ad : (decryptPath s).block.ad = s.block.ad := rfl
@[simp] theorem decryptPath_block_msg : (decryptPath s).block.msg = [] := rfl
@[simp] theorem decryptPath_block_tagIn : (decryptPath s).block.tagIn = s.block.tagIn := rfl
@[simp] theorem decryptPath_block_tagInSet : (decryptPath s).block.tagInSet = s.block.tagInSet := rfl
@[simp] theorem decryptPath_block_tagOut : (decryptPath s).block.tagOut = s.block.tagOut := rfl
@[simp] theorem decryptPath_block_tagOutValid : (decryptPath s).block.tagOutValid = s.block.tagOutValid := rfl
@[simp] theorem decryptPath_block_lastErr : (decryptPath s).block.lastErr = s.block.lastErr := rfl
@[simp] theorem decryptPath_block_arg : (decryptPath s).block.arg = s.block.arg := rfl

@[simp] theorem updateByteEffect_block_phase : (updateByteEffect s).block.phase = s.block.phase := rfl
@[simp] theorem updateByteEffect_block_key : (updateByteEffect s).block.key = s.block.key := rfl
@[simp] theorem updateByteEffect_block_nonce : (updateByteEffect s).block.nonce = s.block.nonce := rfl
@[simp] theorem updateByteEffect_block_macKey : (updateByteEffect s).block.macKey = s.block.macKey := rfl
@[simp] theorem updateByteEffect_block_ad : (updateByteEffect s).block.ad = s.block.ad := rfl
@[simp] theorem updateByteEffect_block_msg : (updateByteEffect s).block.msg = s.block.msg ++ [updateByteOperand s.block] := rfl
@[simp] theorem updateByteEffect_block_tagIn : (updateByteEffect s).block.tagIn = s.block.tagIn := rfl
@[simp] theorem updateByteEffect_block_tagInSet : (updateByteEffect s).block.tagInSet = s.block.tagInSet := rfl
@[simp] theorem updateByteEffect_block_tagOut : (updateByteEffect s).block.tagOut = s.block.tagOut := rfl
@[simp] theorem updateByteEffect_block_tagOutValid : (updateByteEffect s).block.tagOutValid = s.block.tagOutValid := rfl
@[simp] theorem updateByteEffect_block_lastErr : (updateByteEffect s).block.lastErr = s.block.lastErr := rfl
@[simp] theorem updateByteEffect_block_arg : (updateByteEffect s).block.arg = s.block.arg := rfl

@[simp] theorem updateByteEffect_params : (updateByteEffect s).params = s.params := rfl
@[simp] theorem updateByteEffect_hmem : (updateByteEffect s).hmem = s.hmem := rfl
@[simp] theorem updateByteEffect_pending : (updateByteEffect s).pending = s.pending := rfl
@[simp] theorem updateByteEffect_readData : (updateByteEffect s).readData = s.readData := rfl
@[simp] theorem updateBlockEffect_hmem : (updateBlockEffect s).hmem = memWrite s.hmem (updateBlockOperand s.block).start (List.replicate (updateBlockOperand s.block).count 0) := rfl
@[simp] theorem getTagEffect_hmem : (getTagEffect s).hmem = memWrite s.hmem (getTagOperand s.block).start s.block.tagOut.toList := rfl

theorem State.setLastErr_setLastErr (e' : ResultCode) : (s.setLastErr e).setLastErr e' = s.setLastErr e' := rfl

theorem State.withFetchWord_eq (nbits n : Nat) :
    s.withFetchWord nbits n = s.commandNext (BitVec.ofNat 32 (n % 2 ^ nbits)) := rfl

end Fields

end Sys2Proof.Machine
end

