-- ==== Sys2Proof/Laws/Commands.lean ====
section
/-! SUPPORT. What a command can do, said once: every command answers a next state, which is either the state with the code of
its first failing check or its effect with LAST_ERR = OK. -/

namespace Sys2Proof.Machine

@[simp] theorem firstFailed_nil : firstFailed [] = none := rfl

theorem firstFailed_cons (c : Check) (cs : List Check) :
    firstFailed (c :: cs) = if c.fails then some c.code else firstFailed cs := rfl

/-- No check fails exactly when every check of the list passes. -/
theorem firstFailed_eq_none {cs : List Check} : firstFailed cs = none ↔ ∀ c ∈ cs, c.fails = false := by
  induction cs with
  | nil => simp
  | cons c cs ih => by_cases h : c.fails <;> simp [firstFailed_cons, h, ih]

/-- A failing list reports the code of one of its checks that fails. -/
theorem firstFailed_some {cs : List Check} {e : ResultCode} (h : firstFailed cs = some e) :
    ∃ c ∈ cs, c.fails = true ∧ c.code = e := by
  induction cs with
  | nil => simp at h
  | cons c cs ih =>
    rw [firstFailed_cons] at h
    split at h
    · exact ⟨c, by simp, ‹_›, by simpa using h⟩
    · obtain ⟨d, hd, hf, hc⟩ := ih h
      exact ⟨d, by simp [hd], hf, hc⟩

/-- The checks of each command. -/
def checksOf : Instr → State → List Check
  | .init, s => initChecks s
  | .updateByte, s => updateByteChecks s
  | .updateBlock, s => updateBlockChecks s
  | .setTag, s => setTagChecks s
  | .finalize, s => finalizeChecks s
  | .getTag, s => getTagChecks s
  | .reset, s => [deadCheck s.block]
  | .dispose, _ => []

/-- The effect of each command. -/
def effectOf : Instr → State → State
  | .init => initEffect
  | .updateByte => updateByteEffect
  | .updateBlock => updateBlockEffect
  | .setTag => setTagEffect
  | .finalize => finalizeEffect
  | .getTag => getTagEffect
  | .reset => resetEffect
  | .dispose => disposeEffect

/-- Every command is its checks and its effect. -/
theorem exec_eq (i : Instr) (s : State) : exec i s = runCommand (checksOf i s) (effectOf i) s := by
  cases i <;> rfl

theorem runCommand_of_fail {cs : List Check} {f : State → State} {s : State} {e : ResultCode}
    (h : firstFailed cs = some e) : runCommand cs f s = .next (s.setLastErr e) := by
  simp [runCommand, h, raise]

theorem runCommand_of_pass {cs : List Check} {f : State → State} {s : State}
    (h : firstFailed cs = none) : runCommand cs f s = .next ((f s).setLastErr .ok) := by
  simp [runCommand, h, complete]

/-- A command with a failing check reports its code and changes nothing else. -/
theorem exec_of_fail {i : Instr} {s : State} {e : ResultCode} (h : firstFailed (checksOf i s) = some e) :
    exec i s = .next (s.setLastErr e) := (exec_eq i s).trans (runCommand_of_fail h)

/-- A command whose checks pass has its effect and reports OK. -/
theorem exec_of_pass {i : Instr} {s : State} (h : firstFailed (checksOf i s) = none) :
    exec i s = .next ((effectOf i s).setLastErr .ok) := (exec_eq i s).trans (runCommand_of_pass h)

/-- Everything a command can do. -/
theorem exec_cases {i : Instr} {s : State} {o : Host.Outcome State Fault Refusal} (h : exec i s = o) :
    (∃ e, firstFailed (checksOf i s) = some e ∧ o = .next (s.setLastErr e)) ∨
    (firstFailed (checksOf i s) = none ∧ o = .next ((effectOf i s).setLastErr .ok)) := by
  rw [exec_eq] at h
  cases hf : firstFailed (checksOf i s) with
  | some e => exact .inl ⟨e, rfl, by rw [← h, runCommand_of_fail hf]⟩
  | none => exact .inr ⟨rfl, by rw [← h, runCommand_of_pass hf]⟩

/-- The effects leave the parameters, the queue and the read data alone. -/
@[simp] theorem effectOf_params (i : Instr) (s : State) : (effectOf i s).params = s.params := by
  cases i <;> simp only [effectOf, finalizeEffect, disposeEffect] <;> (try split) <;> rfl

@[simp] theorem effectOf_pending (i : Instr) (s : State) : (effectOf i s).pending = s.pending := by
  cases i <;> simp only [effectOf, finalizeEffect, disposeEffect] <;> (try split) <;> rfl

@[simp] theorem effectOf_readData (i : Instr) (s : State) : (effectOf i s).readData = s.readData := by
  cases i <;> simp only [effectOf, finalizeEffect, disposeEffect] <;> (try split) <;> rfl

/-- The checks of no command carry the code OK, so a failing check is seen in LAST_ERR. -/
theorem checksOf_code_ne_ok (i : Instr) (s : State) : ∀ c ∈ checksOf i s, c.code ≠ .ok := by
  cases i <;>
    simp [checksOf, initChecks, updateByteChecks, updateBlockChecks, setTagChecks, finalizeChecks, getTagChecks,
      deadCheck, finalCheck, capacityCheck, Descriptor.wCheck, Descriptor.hCheck]
  unfold releaseGate
  split <;> simp

/-- A window that passes the W-check and the H-check lies in host memory. -/
theorem Descriptor.inside {d : Descriptor} {size : Nat} (hw : d.wFails = false) (hh : d.hFails size = false) :
    d.start + d.count ≤ size := by
  simp only [Descriptor.wFails, Descriptor.hFails, Bool.or_eq_false_iff, decide_eq_false_iff_not] at hw hh
  unfold Descriptor.start Descriptor.count
  omega

/-- The four actions of a step: idle, or the oldest action on the rest of the queue. -/
theorem step_nil {s : State} (h : s.pending = []) : step s = .next s := by
  simp [step, runNext, h]

theorem step_cons {s : State} {a : HostAction} {rest : List HostAction} (h : s.pending = a :: rest) :
    step s = hostAction a { s with pending := rest } := by
  simp [step, runNext, h]

theorem csrReg_cmd : csrReg cmdOffset = .cmd := rfl

/-- A write to CMD is one command step. -/
theorem hostAction_command (w : Word) (s : State) : hostAction (.csr (.command w)) s = runCommandWord w s := rfl

end Sys2Proof.Machine
end

