-- ==== Sys2Proof/Laws/Datapath.lean ====
section
/-! SUPPORT. Sizes of the datapath's byte strings. -/

namespace Sys2Proof.Machine

@[simp] theorem padding_length (n : Nat) : (padding n).length = pad16 n := by simp [padding]

@[simp] theorem le64_length (n : Nat) : (le64 n).length = 8 := by simp [le64]

theorem macInput_length (ad ct : List Byte) :
    (macInput ad ct).length = ad.length + pad16 ad.length + ct.length + pad16 ct.length + 16 := by
  simp [macInput]; omega

@[simp] theorem applyKeystream_length (b : Block) (m : List Byte) : (applyKeystream b m).length = m.length := by
  simp [applyKeystream]

/-- Byte i of Apply is byte i of the message XOR keystream byte i from block counter 1 (R176). -/
theorem applyKeystream_getElem (b : Block) (m : List Byte) (i : Nat) (h : i < m.length) :
    (applyKeystream b m)[i]'(by simpa using h) = m[i] ^^^ Config.keystreamByte b.key b.nonce 1 i := by
  simp [applyKeystream, Config.KS]

end Sys2Proof.Machine
end

