-- ==== Sys2Proof/Laws/Decode.lean ====
section
/-! SUPPORT. Laws of the decoder. -/

namespace Sys2Proof

@[simp] theorem decode_encode (i : Instr) : decode (encode i) = .ok i := by cases i <;> decide

/-- A word with RSVD ≠ 0 is no command. -/
theorem decode_of_rsvd {w : Word} (h : rsvdField w ≠ 0) : decode w = .error .rsvdNonzero := by
  rw [decode, if_pos h]

/-- The numbers of the fields of a command word. -/
theorem opcField_toNat (w : Word) : (opcField w).toNat = w.toNat % 256 := by
  simp [opcField]

theorem rsvdField_toNat (w : Word) : (rsvdField w).toNat = w.toNat / 256 := by
  have := w.isLt
  simp [rsvdField, Nat.shiftRight_eq_div_pow]
  omega

/-- The bytes of a word make the word (R46). -/
theorem wordOfBytes_bytesOfWord (w : Word) :
    wordOfBytes (w.extractLsb' 0 8) (w.extractLsb' 8 8) (w.extractLsb' 16 8) (w.extractLsb' 24 8) = w := by
  apply BitVec.eq_of_getLsbD_eq
  intro i hi
  simp only [wordOfBytes, BitVec.getLsbD_append, BitVec.getLsbD_extractLsb']
  by_cases h1 : i < 8
  · simp [h1]
  · by_cases h2 : i - 8 < 8
    · simp [h1, h2, show 8 + (i - 8) = i by omega]
    · by_cases h3 : i - 8 - 8 < 8
      · simp [h1, h2, h3, show 16 + (i - 8 - 8) = i by omega]
      · simp [h1, h2, h3, show i - 8 - 8 - 8 < 8 by omega, show 24 + (i - 8 - 8 - 8) = i by omega]

end Sys2Proof
end

