-- ==== Sys2Proof/Laws/PerInstr.lean ====
section
/-! SUPPORT. Statements made per instruction: one lemma per constructor of Instr. -/

namespace Sys2Proof.Laws.OneWord

/-- A command is well formed, its word has RSVD = 0 (R104) and decodes to it, from the word and from its four bytes. -/
def Statement (i : Instr) : Prop :=
  i.wf = true ∧ rsvdField (encode i) = 0 ∧ decode (encode i) = .ok i ∧ decodeBytes (bytesOfWord (encode i)) = .ok i

theorem init : Statement .init := by unfold Statement; decide
theorem updateByte : Statement .updateByte := by unfold Statement; decide
theorem updateBlock : Statement .updateBlock := by unfold Statement; decide
theorem setTag : Statement .setTag := by unfold Statement; decide
theorem finalize : Statement .finalize := by unfold Statement; decide
theorem getTag : Statement .getTag := by unfold Statement; decide
theorem reset : Statement .reset := by unfold Statement; decide
theorem dispose : Statement .dispose := by unfold Statement; decide

end Sys2Proof.Laws.OneWord
end

