-- ==== Sys2Proof/Laws/WellFormed.lean ====
section
/-! SUPPORT. The checks of WellFormed as plain propositions. -/

namespace Sys2Proof

section Access
variable (off : Nat) (w : Word)

@[simp] theorem Machine.CsrAccess.readAt_size : (Machine.CsrAccess.readAt off).size = 4 := rfl
@[simp] theorem Machine.CsrAccess.readAt_offset : (Machine.CsrAccess.readAt off).offset = off := rfl
@[simp] theorem Machine.CsrAccess.readAt_dir : (Machine.CsrAccess.readAt off).dir = .read := rfl
@[simp] theorem Machine.CsrAccess.writeAt_size : (Machine.CsrAccess.writeAt off w).size = 4 := rfl
@[simp] theorem Machine.CsrAccess.writeAt_offset : (Machine.CsrAccess.writeAt off w).offset = off := rfl
@[simp] theorem Machine.CsrAccess.writeAt_dir : (Machine.CsrAccess.writeAt off w).dir = .write w := rfl

end Access

/-- R45 as a proposition. -/
theorem Machine.CsrAccess.wf_iff (a : Machine.CsrAccess) :
    a.wf = true ↔ a.size = 4 ∧ a.offset % 4 = 0 ∧ a.offset < 64 := by
  simp only [Machine.CsrAccess.wf, Bool.and_eq_true, decide_eq_true_iff, and_assoc]
  rfl

/-- The bounds of R7 as a proposition. -/
theorem Config.Params.wf_iff (p : Config.Params) :
    p.wf = true ↔ p.msgCap ≤ p.msgCapBound ∧ p.adCap ≤ Config.adCapBound ∧ 1 ≤ p.hmemSize ∧
      p.hmemSize ≤ Config.hmemSizeBound := by
  simp only [Config.Params.wf, Bool.and_eq_true, decide_eq_true_iff, and_assoc]

/-- An operand that fits lies between -2^31 and 2^32. -/
theorem Machine.operandFits_iff (x : Int) : Machine.operandFits x = true ↔ -(2 ^ 31) ≤ x ∧ x < 2 ^ 32 := by
  simp only [Machine.operandFits, Bool.and_eq_true, decide_eq_true_iff]

end Sys2Proof
end

