-- ==== Sys2Proof/Tests/Slice0.lean ====
section
/-! SUPPORT. The model's own tests. The expected values come from spec/95_test_vectors.md (row names in the comments) and from
the encodings of spec/30_encoding.md; the second part shows, for every obligation with hypotheses, states that meet them. -/

namespace Sys2Proof.Tests

open Sys2Proof.Machine

/-! ## Small states -/

/-- The parameters of the spec's vectors: CANON12, HMEM_SIZE 0x1000, MSG_CAP 1024, AD_CAP 256. -/
def params : Config.Params :=
  { profile := .canon12, draftCtr64 := false, msgCap := 1024, adCap := 256, hmemSize := 0x1000 }

/-- ARG0, ARG1, … from a list, the rest 0. -/
def args (ws : List Word) : Vector Word 8 := Vector.ofFn fun i => ws.getD i 0

/-- A machine in a phase, with operands and host memory, every other element as at power-on. -/
def machine (phase : Phase) (ws : List Word) (hmem : Memory := []) : State :=
  { params := params
    block := { Block.powerOn params with phase := phase, arg := args ws }
    hmem := hmem
    pending := []
    readData := none }

/-- The machine with MSG holding some bytes. -/
def withMsg (s : State) (m : List Byte) : State := { s with block := { s.block with msg := m } }

/-- The machine in decrypt mode with a given TAG_IN. -/
def withTag (s : State) (t : Vector Byte 16) : State := { s with block := { s.block with tagIn := t, tagInSet := true } }

/-- The machine with a retrievable tag 01 01 … 01. -/
def tagReady (s : State) : State :=
  { s with block := { s.block with tagOut := Vector.replicate 16 1, tagOutValid := true } }

/-- The machine with host actions pending. -/
def queue (s : State) (q : List HostAction) : State := { s with pending := q }

/-- A value read off the next state, where there is one. -/
def seen {α : Type} (o : Host.Outcome State Fault Refusal) (f : State → α) : Option α :=
  match o with
  | .next t => some (f t)
  | .fault _ => none
  | .refused _ => none

/-- STATUS after a command. -/
def status (i : Instr) (s : State) : Option Word := seen (exec i s) fun t => statusWord t.block

/-- The reason of a refusal. -/
def refusal (o : Host.Outcome State Fault Refusal) : Option Refusal :=
  match o with
  | .next _ => none
  | .fault _ => none
  | .refused r => some r

/-- The reason of a fault. -/
def faultOf (o : Host.Outcome State Fault Refusal) : Option Fault :=
  match o with
  | .next _ => none
  | .fault r => some r
  | .refused _ => none

/-- HMEM[0x100..0x104) = a0 a1 a2 a3. -/
def block4 : Memory := [(0x100, 0xa0), (0x101, 0xa1), (0x102, 0xa2), (0x103, 0xa3)]

/-- The bytes of a hexadecimal number of `n` bytes, first byte most significant. -/
def hex (n v : Nat) : List Byte := (List.range n).map fun i => BitVec.ofNat 8 (v / 256 ^ (n - 1 - i))

/-! ## WellFormed refuses each ill-formed term -/

theorem test_wf_msgCap : Config.Params.wf { params with msgCap := 64 * (2 ^ 32 - 1) + 1 } = false := by decide
theorem test_wf_msgCap_le64 :
    Config.Params.wf { params with profile := .draft16, draftCtr64 := true, msgCap := 2 ^ 64 } = false := by decide
theorem test_wf_adCap : Config.Params.wf { params with adCap := 2 ^ 64 } = false := by decide
theorem test_wf_hmemSize_zero : Config.Params.wf { params with hmemSize := 0 } = false := by decide
theorem test_wf_hmemSize_large : Config.Params.wf { params with hmemSize := 2 ^ 32 + 1 } = false := by decide
theorem test_wf_params : Config.Params.wf params = true := by decide
theorem test_wf_access_size : CsrAccess.wf { dir := .read, offset := 0, size := 1 } = false := by decide
theorem test_wf_access_alignment : (CsrAccess.readAt 2).wf = false := by decide
theorem test_wf_access_window : (CsrAccess.readAt 64).wf = false := by decide
theorem test_wf_operand_small : (Statement.updateByte (-(2 ^ 31) - 1)).wf = false := by decide
theorem test_wf_operand_large : (Statement.finalize 0 (2 ^ 32) 0).wf = false := by decide
theorem test_wf_write_offset : (Statement.write 0x06 0).wf = false := by decide
theorem test_wf_write_word : (Statement.write 0x08 (2 ^ 32)).wf = false := by decide
theorem test_wf_read_offset : (Statement.read 0x40).wf = false := by decide
theorem test_wf_expect : (Statement.expect .lastErr 16).wf = false := by decide

/-! ## Decoding (spec/30_encoding.md R101, R102; vectors of section 2.9)

Each word is written from the format: RSVD in the high 24 bits, OPC in the low 8. -/

theorem test_decode_commands :
    decode (0#24 ++ 0b00000001#8) = .ok .init ∧ decode (0#24 ++ 0b00000010#8) = .ok .updateByte ∧
    decode (0#24 ++ 0b00000011#8) = .ok .updateBlock ∧ decode (0#24 ++ 0b00000100#8) = .ok .setTag ∧
    decode (0#24 ++ 0b00000101#8) = .ok .finalize ∧ decode (0#24 ++ 0b00000110#8) = .ok .getTag ∧
    decode (0#24 ++ 0b00000111#8) = .ok .reset ∧ decode (0#24 ++ 0b00001000#8) = .ok .dispose := by decide
theorem test_decode_reserved :
    decode 0x00000000 = .error .opcReserved ∧ decode 0x00000009 = .error .opcReserved ∧
    decode 0x000000FF = .error .opcReserved ∧ decode 0x00000101 = .error .rsvdNonzero ∧
    decode 0x80000005 = .error .rsvdNonzero ∧ decode 0x00000106 = .error .rsvdNonzero := by decide
theorem test_decode_bytes_low_first :
    decodeBytes [0x05, 0, 0, 0] = .ok .finalize ∧ decodeBytes [0, 0, 0, 0x05] = .error .rsvdNonzero ∧
    decodeBytes [0x05] = .error .notOneWord := by decide
theorem test_decode_table_word :
    decodeTableWord 32 0x00000006 = some .getTag ∧ decodeTableWord 32 0x00000106 = none ∧
    decodeTableWord 8 0x06 = some .getTag := by decide

/-! ## Assembly (the encodings of programs P1 and P3, section 3) -/

theorem test_assemble_init :
    assemble (.init 0x000 32 0x020 12 0x030 12 20) =
      [.writeAt 0x08 0x00000000, .writeAt 0x0C 0x00000020, .writeAt 0x10 0x00000020, .writeAt 0x14 0x0000000C,
       .writeAt 0x18 0x00000030, .writeAt 0x1C 0x0000000C, .writeAt 0x20 0x00000014, .writeAt 0x00 0x00000001] := by
  decide
theorem test_assemble_negative :
    assemble (.updateBlock 0x100 16 1 (-1)) =
      [.writeAt 0x08 0x00000100, .writeAt 0x0C 0x00000010, .writeAt 0x10 0x00000001, .writeAt 0x14 0xFFFFFFFF,
       .writeAt 0x00 0x00000003] := by decide
theorem test_expand_decrypt :
    Pseudo.expand 12 (.decrypt 0x000 0x020 0x030 12 0x100 114 0x310 0x200 128) =
      [.init 0x000 32 0x020 12 0x030 12 20, .updateBlock 0x100 114 0 114, .setTag 0x310 16, .finalize 0x200 128 0] := by
  decide
/-- P4 from power-on: UPDATE_BYTE gives 0x70, DISPOSE 0x00, RESET 0x70. -/
theorem test_program_expect :
    (match runProgram [.updateByte 0, .expect .lastErr 7, .dispose, .expect .lastErr 0, .reset, .expect .lastErr 7]
        (State.powerOn params) with
      | .done s => some (statusWord s.block)
      | .expectFailed _ => none
      | .fault _ => none
      | .refused _ => none) = some 0x70 := by decide

/-! ## Datapath (sections 1.2, 2.3, 2.6) -/

theorem test_pad16 :
    [0, 1, 12, 15, 16, 17, 31, 32, 64, 65, 114, 2 ^ 64 - 1].map pad16 = [0, 15, 4, 1, 0, 15, 1, 0, 0, 15, 14, 1] := by
  decide
theorem test_le64 :
    le64 114 = hex 8 0x7200000000000000 ∧ le64 256 = hex 8 0x0001000000000000 ∧
    le64 0x0102030405060708 = hex 8 0x0807060504030201 ∧ le64 (2 ^ 32) = hex 8 0x0000000001000000 ∧
    le64 (2 ^ 64 - 1) = hex 8 0xffffffffffffffff := by decide
/-- The row a = 12, c = 0, with the AD of section 1.2. -/
theorem test_macInput_ad_only :
    macInput (hex 12 0x50515253c0c1c2c3c4c5c6c7) [] =
      hex 32 0x50515253c0c1c2c3c4c5c6c7000000000c000000000000000000000000000000 := by decide
/-- The row a = 0, c = 1, with the ciphertext 3f of section 2.5. -/
theorem test_macInput_one_byte :
    macInput [] [0x3f] = hex 32 0x3f00000000000000000000000000000000000000000000000100000000000000 := by decide
/-- The lengths of the rows (0,0), (16,16), (17,15), (0,64), (0,65), (12,114). -/
theorem test_macInput_lengths :
    [(0, 0), (16, 16), (17, 15), (0, 64), (0, 65), (12, 114)].map
      (fun r => (macInput (List.replicate r.1 1) (List.replicate r.2 2)).length) = [16, 48, 64, 80, 96, 160] := by
  simp [macInput_length, pad16]
theorem test_comparator :
    comparator (zeros 16) (zeros 16) = 0x00 ∧
    comparator (zeros 16) ((zeros 16).set 15 0x01) = 0x01 ∧
    comparator (zeros 16) ((zeros 16).set 0 0x80) = 0x80 ∧
    comparator (zeros 16) (((zeros 16).set 0 0x80).set 3 0x01) = 0x81 ∧
    comparator (zeros 16) (Vector.replicate 16 0xff) = 0xff := by decide

/-! ## STATUS and the CSR window (spec/10_state.md R41, R43) -/

theorem test_status_tagOut_invalidCommand :
    statusWord { (tagReady (machine .finalized [])).block with lastErr := .invalidCommand } = 0xAA := by decide
theorem test_csr_read_arg7 :
    seen (step (queue (machine .dead [0, 0, 0, 0, 0, 0, 0, 0x12345678]) [.csr (.readAt 0x24)])) State.readData =
      some (some 0x12345678) := by decide
theorem test_csr_write_reserved_ignored :
    seen (step (queue (machine .dead []) [.csr (.writeAt 0x3C 0xFFFFFFFF)])) State.block =
      some (machine .dead []).block := by decide
theorem test_csr_byte_access_refused :
    refusal (step (queue (machine .dead []) [.csr { dir := .read, offset := 5, size := 1 }])) =
      some .csrAccessNotAligned32 := by decide
theorem test_host_store_outside :
    faultOf (step (queue (machine .dead []) [.hmemStore 0xFFF [1, 2]])) = some .hostStoreOutsideHmem := by decide
/-- 0x00000106 in DEAD: InvalidCommand, not UseAfterDispose (section 2.9). -/
theorem test_invalid_command_in_dead :
    seen (step ((machine .dead []).withFetchWord 32 0x106)) (fun t => statusWord t.block) = some 0xA0 := by decide

/-! ## The commands, at most two theorems each -/

/-- I1: AD of 12 bytes, no message, PHASE = OPEN; the nonce 07 stands at 0x020. -/
theorem test_init :
    seen (exec .init (machine .dead [0x000, 32, 0x020, 12, 0x030, 12, 20] [(0x020, 7), (0x030, 0x50)]))
        (fun t => (statusWord t.block, t.block.nonce, t.block.adLen, t.block.msgLen)) =
      some (0x01, 7 :: List.replicate 11 0, 12, 0) := by decide
/-- I2, I4, I6, I7, I10, I11, I12, I14, and I8, I9 that pass. -/
theorem test_init_checks :
    ([[0, 31, 0x20, 12, 0x30, 12, 20], [0, 32, 0x20, 16, 0x30, 12, 20], [0, 32, 0x20, 12, 0x30, 12, 0x114],
      [0xFF0, 32, 0x20, 12, 0x30, 12, 20], [0, 32, 0x20, 12, 0x1001, 0, 20], [0, 32, 0x20, 12, 0x30, 300, 20],
      [0, 31, 0x20, 12, 0x30, 12, 12], [0xFF0, 32, 0x20, 12, 0x30, 300, 20], [0xFE0, 32, 0x20, 12, 0x30, 12, 20],
      [0, 32, 0x20, 12, 0x1000, 0, 20]] : List (List Word)).map (fun a => firstFailed (initChecks (machine .dead a))) =
    [some .invalidKeySize, some .invalidNonceSize, some .unsupportedParameter, some .invalidRange, some .invalidRange,
      some .capacityExceeded, some .invalidKeySize, some .invalidRange, none, none] := by decide
/-- U2: the upper bits of ARG0 are ignored. -/
theorem test_updateByte :
    seen (exec .updateByte (machine .opened [0xFFFFFF41])) (fun t => (statusWord t.block, t.block.msg)) =
      some (0x01, [0x41]) := by decide
/-- U18, U20, and CapacityExceeded at MSG_CAP = 0. -/
theorem test_updateByte_checks :
    status .updateByte (machine .dead [0x41]) = some 0x70 ∧ status .updateByte (machine .finalized [0x41]) = some 0x82 ∧
    status .updateByte { machine .opened [0x41] with params := { params with msgCap := 0 } } = some 0x91 := by decide
/-- U5 on four bytes: MSG takes a1 a2 a3, the window is scrubbed, a0 stays. -/
theorem test_updateBlock :
    seen (exec .updateBlock (machine .opened [0x100, 4, 1, 3] block4)) (fun t => (t.block.msg, t.hmem)) =
      some ([0xa1, 0xa2, 0xa3], [(0x100, 0xa0)]) := by decide
/-- U7 to U15, U17 to U19. -/
theorem test_updateBlock_checks :
    ([[0x100, 16, 16, 0], [0x100, 16, 17, 0], [0x100, 16, 16, 1], [0x100, 16, 1, 16], [0x100, 16, 0xFFFFFFFF, 1],
      [0x100, 16, 0, 0xFFFFFFFF], [0x100, 16, 0x7FFFFFFF, 0x7FFFFFFF], [0xFFF, 2, 0, 0], [0x1000, 0, 0, 0]] :
        List (List Word)).map (fun a => status .updateBlock (machine .opened a)) =
      [some 0x01, some 0x51, some 0x51, some 0x51, some 0x51, some 0x51, some 0x51, some 0x51, some 0x01] ∧
    status .updateBlock { machine .opened [0x100, 16, 0, 0xFFFFFFFF] with params := { params with msgCap := 0 } } =
      some 0x51 ∧
    status .updateBlock (machine .dead [0x100, 16, 0, 0xFFFFFFFF]) = some 0x70 := by decide
/-- T1: TAG_IN = HMEM[0x300..0x310), STATUS = 0x05. -/
theorem test_setTag :
    seen (exec .setTag (machine .opened [0x300, 16] [(0x300, 0x1a), (0x30F, 0x91)]))
        (fun t => (statusWord t.block, t.block.tagIn[0], t.block.tagIn[15])) = some (0x05, 0x1a, 0x91) := by decide
/-- T2, T4, T5, T6, T7, T8. -/
theorem test_setTag_checks :
    status .setTag (machine .opened [0x300, 15]) = some 0x31 ∧ status .setTag (machine .opened [0xFF1, 16]) = some 0x51 ∧
    status .setTag (machine .opened [0xFF0, 16]) = some 0x05 ∧ status .setTag (machine .opened [0xFF1, 15]) = some 0x31 ∧
    status .setTag (machine .finalized [0x300, 15]) = some 0x82 ∧ status .setTag (machine .dead [0x300, 16]) = some 0x70 := by
  decide
/-- Z3: the empty message at the top of host memory; STATUS = 0x0A and MSG empty. -/
theorem test_finalize :
    seen (exec .finalize (machine .opened [0x1000, 0, 0])) (fun t => (statusWord t.block, t.block.msgLen, t.hmem)) =
      some (0x0A, 0, []) := by decide
/-- D4, D5, D6, D8 with two message bytes, F1, F2. -/
theorem test_finalize_checks :
    ([[0x200, 1, 0], [0x200, 4, 3], [0x200, 4, 0xFFFFFFFF], [0xFFF, 2, 0]] : List (List Word)).map
        (fun a => status .finalize (withTag (withMsg (machine .opened a) [1, 2]) (zeros 16))) =
      [some 0x55, some 0x55, some 0x55, some 0x55] ∧
    status .finalize (tagReady (machine .finalized [0x200, 0, 0])) = some 0x8A ∧
    status .finalize (machine .dead [0x200, 0, 0]) = some 0x70 := by decide
/-- G3: HMEM[0x402..0x412) = TAG_OUT. -/
theorem test_getTag :
    seen (exec .getTag (tagReady (machine .finalized [0x400, 18, 2])))
        (fun t => (statusWord t.block, Memory.read t.hmem 0x401, Memory.read t.hmem 0x402, Memory.read t.hmem 0x411,
          Memory.read t.hmem 0x412)) = some (0x0A, 0, 1, 1, 0) := by decide
/-- G2, G4, G5, G6, G7. -/
theorem test_getTag_checks :
    status .getTag (tagReady (machine .finalized [0x400, 17, 2])) = some 0x5A ∧
    status .getTag (tagReady (machine .finalized [0xFF8, 16, 0])) = some 0x5A ∧
    status .getTag (machine .opened [0x400, 16, 0xFFFFFFFF]) = some 0x81 ∧
    status .getTag (withTag (machine .finalized [0x400, 16, 0]) (zeros 16)) = some 0x86 ∧
    status .getTag (machine .dead [0x400, 16, 0]) = some 0x70 := by decide
/-- S1: the message and the mode are cleared, the AD stays. -/
theorem test_reset :
    seen (exec .reset (withTag (withMsg { machine .opened [] with
        block := { (machine .opened []).block with ad := [9] } } [1, 2, 3, 4, 5]) (Vector.replicate 16 7)))
        (fun t => (statusWord t.block, t.block.msg, t.block.tagIn, t.block.ad)) =
      some (0x01, [], zeros 16, [9]) := by decide
/-- S2, S4. -/
theorem test_reset_checks :
    status .reset (tagReady (machine .finalized [])) = some 0x01 ∧ status .reset (machine .dead []) = some 0x70 := by decide
/-- S5: every element zero. -/
theorem test_dispose :
    seen (exec .dispose (tagReady (withMsg { machine .finalized [] with
        block := { (machine .finalized []).block with key := Vector.replicate 32 3, ad := [9] } } [1]))) State.block =
      some (Block.powerOn params) := by decide
/-- S6. -/
theorem test_dispose_dead : seen (exec .dispose (machine .dead [])) id = some (machine .dead []) := by decide

/-! ## Witnesses: for every obligation with hypotheses, states and operands that meet them

One theorem per obligation (witness_<obligation>), each clause at a boundary value of its range. Where a hypothesis says that a
command answers a certain next state, the witness names that state. -/

/-- One CSR access pending. -/
def access (s : State) (a : CsrAccess) : State := queue s [.csr a]

theorem witness_EncodedCommandDecodesToItself : Instr.init.wf = true ∧ Instr.dispose.wf = true := by decide

theorem witness_EveryOtherWordRaisesInvalidCommand :
    (∀ w : Word, (access (machine .dead []) (.command w)).pending = [.csr (.command w)]) ∧
    (0x00000101 : Word).toNat / 256 ≠ 0 ∧ (0x80000005 : Word).toNat / 256 ≠ 0 ∧
    ((0x00000000 : Word).toNat / 256 = 0 ∧ (0x00000000 : Word).toNat % 256 = 0) ∧
    ((0x00000009 : Word).toNat / 256 = 0 ∧ 8 < (0x00000009 : Word).toNat % 256) ∧
    ((0x000000FF : Word).toNat / 256 = 0 ∧ 8 < (0x000000FF : Word).toNat % 256) ∧
    ((0x00000001 : Word).toNat / 256 = 0 ∧ 1 ≤ (0x00000001 : Word).toNat % 256) ∧
    ((0x00000008 : Word).toNat / 256 = 0 ∧ (0x00000008 : Word).toNat % 256 ≤ 8) :=
  ⟨fun _ => rfl, by decide⟩

theorem witness_OperandWordReadsBack :
    operandFits (-(2 ^ 31)) = true ∧ operandFits 0 = true ∧ operandFits (2 ^ 31 - 1) = true ∧ operandFits (2 ^ 32 - 1) = true := by
  decide

theorem witness_AssembledStatementRunsItsCommand :
    ([.init 0 32 32 12 48 12 20, .updateByte 0xFFFFFF41, .updateBlock 0x100 16 (-1) (-(2 ^ 31)), .setTag 0x300 16,
      .finalize 0x200 128 (-1), .getTag 0x400 (2 ^ 32 - 1) 0, .reset, .dispose] : List Statement).map
        (fun st => (st.wf, st.instr?)) =
      [(true, some .init), (true, some .updateByte), (true, some .updateBlock), (true, some .setTag),
       (true, some .finalize), (true, some .getTag), (true, some .reset), (true, some .dispose)] := by decide

theorem witness_StepRunsTheDecodedCommand :
    (access (machine .dead []) (.command 0x00000001)).pending = [.csr (.command 0x00000001)] ∧
    decode 0x00000001 = .ok .init ∧ decode 0x00000008 = .ok .dispose ∧ decode 0x00000009 = .error .opcReserved ∧
    decode 0x00000101 = .error .rsvdNonzero ∧
    (access (machine .dead []) (.readAt 0x00)).pending = [.csr (.readAt 0x00)] := by decide

/-- The offsets of the four clauses are met at their ends and exclude each other by their form. -/
theorem witness_CsrWindowMap :
    (∀ off w, (access (machine .dead []) (.readAt off)).pending = [.csr (.readAt off)] ∧
      (access (machine .dead []) (.writeAt off w)).pending = [.csr (.writeAt off w)]) ∧
    (0x08 = 0x08 + 4 * (0 : Fin 8).val ∧ 0x24 = 0x08 + 4 * (7 : Fin 8).val) ∧
    (0x28 ≤ 0x28 ∧ 0x28 ≤ 0x3C ∧ 0x28 % 4 = 0 ∧ 0x28 ≤ 0x3C ∧ 0x3C % 4 = 0) :=
  ⟨fun _ _ => ⟨rfl, rfl⟩, by decide⟩

theorem witness_StatusFieldsAtTheirBits :
    (access (machine .dead []) (.readAt 0x04)).pending = [.csr (.readAt 0x04)] ∧
    (access (machine .dead []) (.writeAt 0x04 0xFFFFFFFF)).pending = [.csr (.writeAt 0x04 0xFFFFFFFF)] := by decide

theorem witness_ResultCodesAreDistinct : ResultCode.ok.code = ResultCode.ok.code := rfl

theorem witness_OnlyAlignedWordAccessesHaveAStep :
    (∀ a, (access (machine .dead []) a).pending = [.csr a]) ∧
    ((CsrAccess.readAt 0).size = 4 ∧ (CsrAccess.readAt 0).offset % 4 = 0 ∧ (CsrAccess.readAt 60).offset < 64) ∧
    ¬(CsrAccess.readAt 64).offset < 64 ∧ ¬(CsrAccess.readAt 2).offset % 4 = 0 ∧
    ¬({ dir := .read, offset := 0, size := 2 } : CsrAccess).size = 4 :=
  ⟨fun _ => rfl, by decide⟩

theorem witness_OnlyTheHostCanStopTheMachine :
    refusal (step (access (machine .dead []) (.readAt 64))) = some .csrAccessNotAligned32 ∧
    faultOf (step (queue (machine .dead []) [.hmemStore 0x1000 [1]])) = some .hostStoreOutsideHmem := by decide

theorem witness_CsrWindowIsLittleEndian : (0 < 16 ∧ 0 < 4) ∧ (15 < 16 ∧ 3 < 4) := by decide

/-- A store that ends at HMEM_SIZE, one that passes it by a byte, and an empty one at HMEM_SIZE. -/
theorem witness_HostStoreReachesHostMemoryOnly :
    (queue (machine .dead []) [.hmemStore 0xFFE [1, 2]]).pending = [.hmemStore 0xFFE [1, 2]] ∧
    Memory.wf (queue (machine .dead []) [.hmemStore 0xFFE [1, 2]]).hmem = true ∧
    0xFFE + ([1, 2] : List Byte).length ≤ params.hmemSize ∧ 0x1000 + ([] : List Byte).length ≤ params.hmemSize ∧
    0xFFF + ([1, 2] : List Byte).length > params.hmemSize := by decide

theorem witness_BlockIdlesWithoutAHostAction : (machine .dead []).pending = [] := rfl

theorem witness_PowerOnValues : (queue (machine .opened []) [.assertReset]).pending = [.assertReset] := rfl

/-- Every clause of INIT's rule: the first failing check of the row, at the boundaries the rows of section 2.1 name. -/
theorem witness_InitRule :
    (let b := (machine .dead [0, 31]).block; (b.arg[1]).toNat ≠ 32) ∧
    (let b := (machine .dead [0, 32, 0, 16]).block; (b.arg[1]).toNat = 32 ∧ (b.arg[3]).toNat ≠ params.nonceLen) ∧
    (let b := (machine .dead [0, 32, 0, 12, 0, 0, 0x114]).block;
      (b.arg[1]).toNat = 32 ∧ (b.arg[3]).toNat = params.nonceLen ∧ (b.arg[6]).toNat ≠ 20) ∧
    (let b := (machine .dead [0xFE1, 32, 0, 12, 0, 0, 20]).block;
      (b.arg[1]).toNat = 32 ∧ (b.arg[3]).toNat = params.nonceLen ∧ (b.arg[6]).toNat = 20 ∧
      (b.arg[0]).toNat + 32 > params.hmemSize) ∧
    (let b := (machine .dead [0xFE0, 32, 0xFF5, 12, 0, 0, 20]).block;
      (b.arg[0]).toNat + 32 ≤ params.hmemSize ∧ (b.arg[2]).toNat + params.nonceLen > params.hmemSize) ∧
    (let b := (machine .dead [0xFE0, 32, 0xFF4, 12, 0x1001, 0, 20]).block;
      (b.arg[4]).toNat + (b.arg[5]).toNat > params.hmemSize) ∧
    (let b := (machine .dead [0xFE0, 32, 0xFF4, 12, 0, 257, 20]).block;
      (b.arg[1]).toNat = 32 ∧ (b.arg[3]).toNat = params.nonceLen ∧ (b.arg[6]).toNat = 20 ∧
      (b.arg[0]).toNat + 32 ≤ params.hmemSize ∧ (b.arg[2]).toNat + params.nonceLen ≤ params.hmemSize ∧
      (b.arg[4]).toNat + (b.arg[5]).toNat ≤ params.hmemSize ∧ (b.arg[5]).toNat > params.adCap) ∧
    (let b := (machine .dead [0xFE0, 32, 0xFF4, 12, 0, 256, 20]).block;
      (b.arg[1]).toNat = 32 ∧ (b.arg[3]).toNat = params.nonceLen ∧ (b.arg[6]).toNat = 20 ∧
      (b.arg[0]).toNat + 32 ≤ params.hmemSize ∧ (b.arg[2]).toNat + params.nonceLen ≤ params.hmemSize ∧
      (b.arg[4]).toNat + (b.arg[5]).toNat ≤ params.hmemSize ∧ (b.arg[5]).toNat ≤ params.adCap) := by decide

/-- The phases, and the capacity met exactly and passed by one byte. -/
theorem witness_UpdateByteRule :
    (machine .dead []).block.phase = .dead ∧ (machine .finalized []).block.phase = .finalized ∧
    (machine .opened []).block.phase = .opened ∧
    (withMsg (machine .opened []) [1]).block.msg.length + 1 ≤ ({ params with msgCap := 2 } : Config.Params).msgCap ∧
    (withMsg (machine .opened []) [1, 2]).block.msg.length + 1 > ({ params with msgCap := 2 } : Config.Params).msgCap := by
  decide

theorem witness_UpdateFamilyPhaseChecks :
    isUpdate .updateByte = true ∧ isUpdate .updateBlock = true ∧ (machine .dead []).block.phase = .dead ∧
    (machine .finalized []).block.phase = .finalized := by decide

/-- A negative offset, a negative length, a window past the buffer, a buffer past host memory, a full MSG, and windows that pass
at their ends. -/
theorem witness_UpdateBlockRule :
    (machine .dead []).block.phase = .dead ∧ (machine .finalized []).block.phase = .finalized ∧
    (machine .opened []).block.phase = .opened ∧
    (let b := (machine .opened [0x100, 16, 0xFFFFFFFF, 1]).block; (b.arg[2]).toInt < 0) ∧
    (let b := (machine .opened [0x100, 16, 0, 0x80000000]).block; (b.arg[3]).toInt < 0) ∧
    (let b := (machine .opened [0x100, 16, 16, 1]).block; (b.arg[2]).toInt + (b.arg[3]).toInt > (b.arg[1]).toNat) ∧
    (let b := (machine .opened [0xFFF, 2, 0, 0]).block; (b.arg[0]).toNat + (b.arg[1]).toNat > params.hmemSize) ∧
    (let b := (machine .opened [0, 1025, 0, 1025]).block;
      ¬((b.arg[2]).toInt < 0 ∨ (b.arg[3]).toInt < 0 ∨ (b.arg[2]).toInt + (b.arg[3]).toInt > (b.arg[1]).toNat) ∧
      ¬(b.arg[0]).toNat + (b.arg[1]).toNat > params.hmemSize ∧ b.msg.length + (b.arg[3]).toInt > params.msgCap) ∧
    (let b := (machine .opened [0xFF0, 16, 15, 1]).block;
      ¬((b.arg[2]).toInt < 0 ∨ (b.arg[3]).toInt < 0 ∨ (b.arg[2]).toInt + (b.arg[3]).toInt > (b.arg[1]).toNat) ∧
      ¬(b.arg[0]).toNat + (b.arg[1]).toNat > params.hmemSize ∧ ¬b.msg.length + (b.arg[3]).toInt > params.msgCap) := by
  decide

/-- The command scrubs three bytes, and in DEAD it raises. -/
theorem witness_UpdateBlockScrubsExactlyItsWindow :
    Memory.wf (machine .opened [0x100, 4, 1, 3] block4).hmem = true ∧
    seen (exec .updateBlock (machine .opened [0x100, 4, 1, 3] block4)) (fun t => t.block.lastErr) = some .ok ∧
    seen (exec .updateBlock (machine .dead [0x100, 4, 1, 3] block4)) (fun t => t.block.lastErr) = some .useAfterDispose := by
  decide

theorem witness_SetTagRule :
    (machine .dead []).block.phase = .dead ∧ (machine .finalized []).block.phase = .finalized ∧
    (let b := (machine .opened [0x300, 17]).block; b.phase = .opened ∧ (b.arg[1]).toNat ≠ 16) ∧
    (let b := (machine .opened [0xFF1, 16]).block; (b.arg[1]).toNat = 16 ∧ (b.arg[0]).toNat + 16 > params.hmemSize) ∧
    (let b := (machine .opened [0xFF0, 16]).block;
      b.phase = .opened ∧ (b.arg[1]).toNat = 16 ∧ (b.arg[0]).toNat + 16 ≤ params.hmemSize) := by decide

/-- Every byte of a tag flipped. -/
def flipped (t : Vector Byte 16) : Vector Byte 16 := t.map (~~~ ·)

theorem flipped_ne (t : Vector Byte 16) : t ≠ flipped t := by
  intro h
  have h0 : t[0] = ~~~ t[0] := by
    have := congrArg (fun v : Vector Byte 16 => v[0]) h
    simp [flipped] at this
  revert h0
  generalize t[0] = x
  revert x
  decide

theorem foldl_or_zero (l : List Byte) (h : ∀ b ∈ l, b = 0) : l.foldl (· ||| ·) 0 = 0 := by
  induction l with
  | nil => rfl
  | cons b l ih =>
    obtain rfl := h b (by simp)
    exact ih fun c hc => h c (by simp [hc])

theorem comparator_self (t : Vector Byte 16) : comparator t t = 0 := by
  refine foldl_or_zero _ fun b hb => ?_
  obtain ⟨i, hi, rfl⟩ := List.mem_iff_getElem.1 hb
  rw [List.getElem_zipWith, BitVec.xor_self]
  rfl

theorem foldl_or_ones (l : List Byte) (h : ∀ b ∈ l, b = 0xff) (a : Byte) (hl : l ≠ []) :
    l.foldl (· ||| ·) a = 0xff := by
  induction l generalizing a with
  | nil => exact absurd rfl hl
  | cons b l ih =>
    obtain rfl := h b (by simp)
    have hb : a ||| 0xff = 0xff := by revert a; decide
    cases l with
    | nil => exact hb
    | cons c l => exact ih (fun d hd => h d (by simp [hd])) _ (by simp)

theorem comparator_flipped (t : Vector Byte 16) : comparator t (flipped t) ≠ 0 := by
  have h : comparator t (flipped t) = 0xff := by
    refine foldl_or_ones _ (fun b hb => ?_) 0 ?_
    · obtain ⟨i, hi, rfl⟩ := List.mem_iff_getElem.1 hb
      simp only [flipped, List.getElem_zipWith, Vector.getElem_toList, Vector.getElem_map]
      generalize t[i]'(by simpa [flipped] using hi) = x
      revert x
      decide
    · intro hn
      have := congrArg List.length hn
      simp at this
  rw [h]
  decide

/-- The tag FINALIZE computes in a decrypt engine with two message bytes. -/
def rightTag : Vector Byte 16 := Config.MAC (zeros 32) (macInput [] [1, 2])

/-- A decrypt engine with that TAG_IN, and one with every byte of it wrong; the two-byte output ends at HMEM_SIZE. -/
def rightEngine : State := withTag (withMsg (machine .opened [0xFFE, 2, 0]) [1, 2]) rightTag
def wrongEngine : State := withTag (withMsg (machine .opened [0xFFE, 2, 0]) [1, 2]) (flipped rightTag)

theorem witness_FinalizeRule :
    (machine .dead []).block.phase = .dead ∧ (machine .finalized []).block.phase = .finalized ∧
    (let b := (machine .opened [0x200, 4, 0xFFFFFFFF]).block; b.phase = .opened ∧ (b.arg[2]).toInt < 0) ∧
    (let b := (withMsg (machine .opened [0x200, 4, 3]) [1, 2]).block;
      (b.arg[2]).toInt + b.msg.length > (b.arg[1]).toNat) ∧
    (let b := (machine .opened [0xFFF, 2, 0]).block; (b.arg[0]).toNat + (b.arg[1]).toNat > params.hmemSize) ∧
    (let b := (withMsg (machine .opened [0xFFE, 2, 0]) [1, 2]).block;
      ¬((b.arg[2]).toInt < 0 ∨ (b.arg[2]).toInt + b.msg.length > (b.arg[1]).toNat ∨
        (b.arg[0]).toNat + (b.arg[1]).toNat > params.hmemSize) ∧ b.tagInSet = false) ∧
    (let b := wrongEngine.block;
      ¬((b.arg[2]).toInt < 0 ∨ (b.arg[2]).toInt + b.msg.length > (b.arg[1]).toNat ∨
        (b.arg[0]).toNat + (b.arg[1]).toNat > params.hmemSize) ∧ b.tagInSet = true) ∧
    comparator (Config.MAC wrongEngine.block.macKey (macInput wrongEngine.block.ad wrongEngine.block.msg))
      wrongEngine.block.tagIn ≠ 0 ∧
    comparator (Config.MAC rightEngine.block.macKey (macInput rightEngine.block.ad rightEngine.block.msg))
      rightEngine.block.tagIn = 0 :=
  ⟨rfl, rfl, by decide, by decide, by decide, by decide, ⟨by decide, rfl⟩, comparator_flipped _, comparator_self _⟩

/-- An encrypt FINALIZE of two bytes that succeeds, and one that raises. -/
theorem witness_FinalizeOutputIsAllOrNothing :
    Memory.wf (withMsg (machine .opened [0xFFE, 2, 0]) [1, 2]).hmem = true ∧
    seen (exec .finalize (withMsg (machine .opened [0xFFE, 2, 0]) [1, 2])) (fun t => t.block.lastErr) = some .ok ∧
    seen (exec .finalize (withMsg (machine .opened [0xFFE, 1, 0]) [1, 2])) (fun t => t.block.lastErr) =
      some .invalidRange := by decide

theorem witness_GetTagRule :
    (machine .dead []).block.phase = .dead ∧
    (let b := (machine .opened []).block; b.phase ≠ .dead ∧ b.tagOutValid = false) ∧
    (let b := (tagReady (machine .finalized [0x400, 17, 2])).block;
      b.phase ≠ .dead ∧ b.tagOutValid = true ∧ (b.arg[2]).toInt + 16 > (b.arg[1]).toNat) ∧
    (let b := (tagReady (machine .finalized [0x400, 16, 0xFFFFFFFF])).block; (b.arg[2]).toInt < 0) ∧
    (let b := (tagReady (machine .finalized [0xFF1, 16, 0])).block;
      (b.arg[0]).toNat + (b.arg[1]).toNat > params.hmemSize) ∧
    (let b := (tagReady (machine .finalized [0xFEE, 18, 2])).block;
      b.phase ≠ .dead ∧ b.tagOutValid = true ∧
      ¬((b.arg[2]).toInt < 0 ∨ (b.arg[2]).toInt + 16 > (b.arg[1]).toNat ∨
        (b.arg[0]).toNat + (b.arg[1]).toNat > params.hmemSize)) := by decide

theorem witness_GetTagWritesSixteenBytes :
    Memory.wf (tagReady (machine .finalized [0xFEE, 18, 2])).hmem = true ∧
    seen (exec .getTag (tagReady (machine .finalized [0xFEE, 18, 2]))) (fun t => t.block.lastErr) = some .ok ∧
    seen (exec .getTag (machine .opened [0xFEE, 18, 2])) (fun t => t.block.lastErr) = some .invalidState := by decide

theorem witness_ResetRule : (machine .dead []).block.phase = .dead ∧ (machine .finalized []).block.phase ≠ .dead := by decide

theorem witness_DisposeRule : (machine .dead []).block.phase = .dead ∧ (machine .opened []).block.phase ≠ .dead := by decide

theorem witness_KeyMaterialHasTwoWriters : Instr.finalize ≠ .init ∧ Instr.finalize ≠ .dispose := by decide

theorem witness_TagRegistersHaveTheirWriters :
    (Instr.updateByte ≠ .init ∧ Instr.updateByte ≠ .reset ∧ Instr.updateByte ≠ .dispose) ∧
    Instr.updateByte ≠ .setTag ∧ Instr.updateByte ≠ .finalize ∧ wrongEngine.block.tagInSet = true :=
  ⟨by decide, by decide, by decide, rfl⟩

/-- RESET in decrypt mode brings the mode back to 0. -/
theorem witness_ModeNeverReturnsToEncrypt :
    (withTag (machine .opened []) (zeros 16)).block.tagInSet = true ∧
    seen (exec .reset (withTag (machine .opened []) (zeros 16))) (fun t => t.block.tagInSet) = some false := by decide

theorem witness_ErrorsArePrecise :
    (access (machine .dead []) (.command 0x00000002)).pending = [.csr (.command 0x00000002)] ∧
    seen (step (access (machine .dead []) (.command 0x00000002))) (fun t => t.block.lastErr) = some .useAfterDispose := by
  decide

theorem witness_ErrorMatrix :
    decode 0x00000009 = .error .opcReserved ∧ ResultCode.tagMismatch ∈ canReport .finalize ∧
    ResultCode.tagMismatch ∉ canReport .setTag := by decide

theorem witness_LastErrKeptUntilNextCommand :
    (access (machine .opened []) (.writeAt 0x24 5)).pending = [.csr (.writeAt 0x24 5)] ∧
    (HostAction.csr (.writeAt 0x24 5)).quiet = true ∧ (HostAction.csr (.readAt 0x04)).quiet = true ∧
    (HostAction.hmemStore 0 [1]).quiet = true ∧
    seen (step (access (machine .opened []) (.writeAt 0x24 5))) (fun t => t.block.arg[(7 : Fin 8)]) = some 5 := by decide

theorem witness_MalformedFinalizeHidesTheTag :
    seen (exec .finalize (withTag (withMsg (machine .opened [0xFFE, 1, 0]) [1, 2]) (zeros 16))) (fun t => t.block.lastErr) =
      some .invalidRange := by decide

theorem witness_TagMismatchKeepsEverything :
    wrongEngine.block.phase = .opened ∧ 0 ≤ (wrongEngine.block.arg[2]).toInt ∧
    (wrongEngine.block.arg[2]).toInt + wrongEngine.block.msg.length ≤ (wrongEngine.block.arg[1]).toNat ∧
    (wrongEngine.block.arg[0]).toNat + (wrongEngine.block.arg[1]).toNat ≤ wrongEngine.params.hmemSize ∧
    wrongEngine.block.tagInSet = true ∧
    Config.MAC wrongEngine.block.macKey (macInput wrongEngine.block.ad wrongEngine.block.msg) ≠ wrongEngine.block.tagIn :=
  ⟨rfl, by decide, by decide, by decide, rfl, flipped_ne _⟩

theorem witness_NoPlaintextBeforeTheTagMatches :
    (access rightEngine (.command 0x00000005)).pending = [.csr (.command 0x00000005)] ∧
    (access rightEngine (.command 0x00000005)).block.tagInSet = true := ⟨rfl, rfl⟩

theorem witness_DeadEngineRunsOnlyInitAndDispose :
    (machine .dead []).block.phase = .dead ∧ Instr.reset ≠ .init ∧ Instr.reset ≠ .dispose := by decide

theorem witness_FinalPhaseAcceptsNoMoreInput :
    (tagReady (machine .finalized [])).block.phase = .finalized ∧
    (tagReady (machine .finalized [])).block.tagOutValid = true := by decide

/-- An open engine that meets the invariant: MK is derived from a zero key and a zero nonce. -/
def openEngine (q : List HostAction) (m : List Byte) (hmem : Memory := []) : State :=
  { params := params
    block := { Block.powerOn params with phase := .opened, macKey := Config.KS (zeros 32) (List.replicate 12 0) 0 32, msg := m }
    hmem := hmem
    pending := q
    readData := none }

theorem openEngine_inv (q : List HostAction) (m : List Byte) (hm : m.length ≤ 1024) : (openEngine q m).Inv := by
  refine ⟨show Config.Params.wf params = true by decide, rfl, rfl, ⟨?_, fun _ => rfl, ?_, ?_, ?_, fun _ => rfl, rfl⟩⟩
  · intro h; simp [openEngine] at h
  · intro h; simp [openEngine, Block.powerOn] at h
  · intro h; simp [openEngine] at h
  · exact ⟨hm, Nat.zero_le _⟩

/-- An UPDATE_BYTE that succeeds and a GET_TAG that raises, both in an engine that meets the invariant. -/
theorem witness_PhaseTransitions :
    (openEngine [] []).block.Inv (openEngine [] []).params ∧
    seen (exec .updateByte (openEngine [] [])) (fun t => t.block.lastErr) = some .ok ∧
    seen (exec .getTag (openEngine [] [])) (fun t => t.block.lastErr) = some .invalidState :=
  ⟨(openEngine_inv [] [] (by decide)).blockInv, rfl, rfl⟩

theorem witness_InvariantKeptByEveryStep :
    Config.Params.wf params = true ∧ (openEngine [.csr (.command 0x00000002)] [1]).Inv ∧
    step (openEngine [.csr (.command 0x00000002)] [1]) = .next (openEngine [] [1, 0]) :=
  ⟨by decide, openEngine_inv _ _ (by decide), rfl⟩

theorem witness_PadderReachesTheNextMultiple : 17 ≤ 32 ∧ 32 % 16 = 0 := by decide

theorem witness_LengthEncoderIsLittleEndian : 7 < (le64 0).length ∧ 2 ^ 64 - 1 < 2 ^ 64 := by decide

theorem witness_MacInputIsInjective :
    ([1, 2] : List Byte).length < 2 ^ 64 ∧ ([] : List Byte).length < 2 ^ 64 ∧ macInput [1, 2] [] = macInput [1, 2] [] := by decide

theorem witness_BlockCounterNeverWraps : (openEngine [] (List.replicate 1024 7)).Inv :=
  openEngine_inv _ _ (by rw [List.length_replicate])

/-- An engine that encrypts one byte to host memory at 0x200, the state FINALIZE leaves, and the decrypt engine for the result. -/
def sender : State := { openEngine [] [0xa0] with block := { (openEngine [] [0xa0]).block with arg := args [0x200, 1, 0] } }
def sent : State := (encryptPath sender).setLastErr .ok
def receiver : State :=
  { sender with
    block := { sender.block with
      msg := (memRead sent.hmem 0x200 1).toList
      tagIn := sent.block.tagOut
      tagInSet := true } }

theorem witness_DecryptAcceptsWhatEncryptProduced :
    Memory.wf sender.hmem = true ∧ Memory.wf receiver.hmem = true ∧ sender.block.tagInSet = false ∧
    exec .finalize sender = .next sent ∧ sent.block.lastErr = .ok ∧
    receiver.block.phase = .opened ∧ receiver.block.tagInSet = true ∧ receiver.block.key = sender.block.key ∧
    receiver.block.nonce = sender.block.nonce ∧ receiver.block.macKey = sender.block.macKey ∧
    receiver.block.ad = sender.block.ad ∧
    receiver.block.msg =
      (memRead sent.hmem ((sender.block.arg[0]).toNat + (sender.block.arg[2]).toInt.toNat) sender.block.msg.length).toList ∧
    receiver.block.tagIn = sent.block.tagOut ∧
    0 ≤ (receiver.block.arg[2]).toInt ∧
    (receiver.block.arg[2]).toInt + sender.block.msg.length ≤ (receiver.block.arg[1]).toNat ∧
    (receiver.block.arg[0]).toNat + (receiver.block.arg[1]).toNat ≤ receiver.params.hmemSize :=
  ⟨rfl, rfl, rfl, exec_of_pass (i := .finalize) (s := sender) (by decide), rfl, rfl, rfl, rfl, rfl, rfl, rfl, rfl, rfl, by decide, by decide, by decide⟩

/-- The bytes a0 a1 fed byte by byte, with an operand write between. -/
def bytewise : State :=
  { openEngine [.csr (.command 0x00000002), .csr (.writeAt 0x08 0xa1), .csr (.command 0x00000002)] [] with
    block := { (openEngine [] []).block with arg := args [0xa0] } }
def bytewise1 : State := (updateByteEffect { bytewise with pending := bytewise.pending.tail }).setLastErr .ok
def bytewise2 : State := ({ bytewise1 with pending := bytewise1.pending.tail } : State).writeArg 0 0xa1
def bytewise3 : State := (updateByteEffect { bytewise2 with pending := bytewise2.pending.tail }).setLastErr .ok

theorem witness_MessageIsTheConcatenationOfUpdates : Feeds bytewise [0xa0, 0xa1] bytewise3 :=
  Feeds.update (i := .updateByte) (m := bytewise1) (rest := bytewise.pending.tail) rfl rfl
    (exec_of_pass (i := .updateByte) (s := { bytewise with pending := bytewise.pending.tail }) (by decide)) rfl
    (Feeds.quiet (m := bytewise2) (a := .csr (.writeAt 0x08 0xa1)) (rest := bytewise1.pending.tail) rfl (by decide) rfl
      (Feeds.update (i := .updateByte) (m := bytewise3) (rest := bytewise2.pending.tail) (P := []) rfl rfl
        (exec_of_pass (i := .updateByte) (s := { bytewise2 with pending := bytewise2.pending.tail }) (by decide)) rfl
        (Feeds.done _)))

/-- The same bytes fed as one block. -/
def blockwise : State :=
  { openEngine [.csr (.command 0x00000003)] [] block4 with
    block := { (openEngine [] []).block with arg := args [0x100, 4, 0, 2] } }
def blockwise1 : State := (updateBlockEffect { blockwise with pending := [] }).setLastErr .ok

theorem witness_StreamingEquivalence :
    blockwise.params = bytewise.params ∧
    blockwise.block = { bytewise.block with lastErr := blockwise.block.lastErr, arg := blockwise.block.arg } ∧
    Feeds bytewise [0xa0, 0xa1] bytewise3 ∧ Feeds blockwise [0xa0, 0xa1] blockwise1 :=
  ⟨rfl, rfl, witness_MessageIsTheConcatenationOfUpdates,
    Feeds.update (i := .updateBlock) (m := blockwise1) (rest := []) (P := []) rfl rfl
      (exec_of_pass (i := .updateBlock) (s := { blockwise with pending := [] }) (by decide)) rfl (Feeds.done _)⟩

/-- INIT with the nonce 07 00 … 00 over a live engine with a message. -/
def reinit : State := withMsg (machine .opened [0x000, 32, 0x020, 12, 0x030, 12, 20] [(0x020, 7)]) [1, 2]

theorem witness_InitLeavesNoTrace :
    (machine .dead [0x000, 32, 0x020, 12, 0x030, 12, 20]).block.arg = reinit.block.arg ∧
    exec .init reinit = .next ((initEffect reinit).setLastErr .ok) ∧
    ((initEffect reinit).setLastErr .ok).block.lastErr = .ok :=
  ⟨rfl, exec_of_pass (i := .init) (s := reinit) (by decide), rfl⟩

theorem witness_ResetReusesTheKeystream :
    (machine .finalized []).block.phase ≠ .dead ∧ ([1, 2] : List Byte).length = ([3, 4] : List Byte).length := by decide

/-- The same engine under another key, with a FINALIZE pending: DEAD, so nothing is disclosed. -/
def otherKey (s : State) : State := { s with block := { s.block with key := Vector.replicate 32 1 } }

theorem witness_SecretsReachTheHostOnlyAsDisclosed :
    SameToHost (access (machine .dead []) (.command 0x00000005)) (otherKey (access (machine .dead []) (.command 0x00000005))) ∧
    decode 0x00000005 = .ok .finalize ∧
    SameDisclosed (access (machine .dead []) (.command 0x00000005)).block
      (otherKey (access (machine .dead []) (.command 0x00000005))).block :=
  ⟨⟨rfl, ⟨rfl, rfl, rfl, rfl, rfl, rfl⟩, rfl, rfl, rfl⟩, by decide, ⟨rfl, rfl, Iff.rfl⟩⟩

/-- Two instances; the first disposes its engine. -/
def twoInstances : Platform :=
  { orchs := [{ params := params, block := (machine .opened []).block }, { params := params, block := (machine .finalized []).block }]
    hmem := []
    readData := none }

theorem witness_InstancesShareNoState :
    twoInstances.act ⟨0, by decide⟩ (.csr (.command 0x00000008)) =
      .next { twoInstances with orchs := [{ params := params, block := (machine .dead []).block },
        { params := params, block := (machine .finalized []).block }] } := rfl

end Sys2Proof.Tests
end

section
/-! PROOFS. The bounds of spec/00_scope.md R8 on what the buffers can hold: O52. -/

namespace Sys2Proof.Machine

/-- What MSG holds is at most the bound R7 puts on MSG_CAP. -/
theorem State.Inv.msgLen_le_msgCapBound {s : State} (h : s.Inv) : s.block.msgLen ≤ s.params.msgCapBound := by
  obtain ⟨hcap, -⟩ := (Config.Params.wf_iff s.params).1 h.paramsWf
  exact h.blockInv.withinCapacity.1.trans hcap

/-- What AD holds is at most the bound R7 puts on AD_CAP. -/
theorem State.Inv.adLen_le_adCapBound {s : State} (h : s.Inv) : s.block.adLen ≤ Config.adCapBound := by
  obtain ⟨-, hcap, -⟩ := (Config.Params.wf_iff s.params).1 h.paramsWf
  exact h.blockInv.withinCapacity.2.trans hcap

/-- The arithmetic of R8: n bytes that fit in the keystream blocks 1 to c - 1 need no block counter as large as c. -/
theorem lastBlockCounter_lt {n c : Nat} (hc : 0 < c) (hn : n ≤ Config.ksBlock * (c - 1)) :
    (n + (Config.ksBlock - 1)) / Config.ksBlock < c := by
  refine Nat.div_lt_of_lt_mul ?_
  simp only [Config.ksBlock] at hn ⊢
  omega

/-- Settles O52: the invariant bounds MSG and AD by the bounds of R7, and the two terms of MSG_CAP's bound are the counter's
range and the range of LE64. -/
theorem blockCounterNeverWraps : Obligations.BlockCounterNeverWraps := by
  intro s hs
  obtain ⟨hle64, hcounter⟩ := le_min_iff.1 hs.msgLen_le_msgCapBound
  have had : s.block.adLen ≤ 2 ^ 64 - 1 := hs.adLen_le_adCapBound
  exact ⟨lastBlockCounter_lt (Nat.two_pow_pos _) hcounter, by omega, by omega⟩

end Sys2Proof.Machine
end

section
/-! PROOFS. What the shared operations do, said once for the statements of spec/10_state.md: the effects by the branch they take,
the checks of each command as plain propositions, and the moves of one host action. -/

namespace Sys2Proof.Machine

/-! ## The effects that branch -/

section Branches
variable {s : State}

theorem finalizeEffect_of_decrypt (h : s.block.tagInSet = true) : finalizeEffect s = decryptPath s := if_pos h

theorem finalizeEffect_of_encrypt (h : s.block.tagInSet = false) : finalizeEffect s = encryptPath s :=
  if_neg (by simp [h])

theorem disposeEffect_of_dead (h : s.block.phase = .dead) : disposeEffect s = s := if_pos h

theorem disposeEffect_of_alive (h : s.block.phase ≠ .dead) : disposeEffect s = zeroize s := if_neg h

/-- FINALIZE is one of its two paths. -/
theorem finalizeEffect_cases (s : State) :
    s.block.tagInSet = true ∧ finalizeEffect s = decryptPath s ∨
    s.block.tagInSet = false ∧ finalizeEffect s = encryptPath s := by
  cases h : s.block.tagInSet with
  | true => exact .inl ⟨rfl, finalizeEffect_of_decrypt h⟩
  | false => exact .inr ⟨rfl, finalizeEffect_of_encrypt h⟩

/-- DISPOSE does nothing or zeroizes. -/
theorem disposeEffect_cases (s : State) :
    s.block.phase = .dead ∧ disposeEffect s = s ∨ s.block.phase ≠ .dead ∧ disposeEffect s = zeroize s := by
  by_cases h : s.block.phase = .dead
  · exact .inl ⟨h, disposeEffect_of_dead h⟩
  · exact .inr ⟨h, disposeEffect_of_alive h⟩

end Branches

section BranchFields
variable (s : State)

/-- The block after FINALIZE: TAG_OUT and TAG_OUT_VALID are written in encrypt mode only (R39). -/
@[simp] theorem finalizeEffect_block :
    (finalizeEffect s).block =
      { s.block with
        tagOut := if s.block.tagInSet then s.block.tagOut else computeTag s.block (applyKeystream s.block s.block.msg)
        tagOutValid := !s.block.tagInSet || s.block.tagOutValid
        msg := []
        phase := .finalized } := by
  obtain ⟨hm, h⟩ | ⟨hm, h⟩ := finalizeEffect_cases s
  · simp [h, hm, decryptPath]
  · simp [h, hm, encryptPath]

@[simp] theorem disposeEffect_block_phase : (disposeEffect s).block.phase = .dead := by
  obtain ⟨hp, h⟩ | ⟨-, h⟩ := disposeEffect_cases s
  · rw [h, hp]
  · simp [h]

@[simp] theorem disposeEffect_block_arg : (disposeEffect s).block.arg = s.block.arg := by
  obtain ⟨-, h⟩ | ⟨-, h⟩ := disposeEffect_cases s <;> simp [h]

end BranchFields

/-- No effect writes an ARG register (R40). -/
@[simp] theorem effectOf_block_arg (i : Instr) (s : State) : (effectOf i s).block.arg = s.block.arg := by
  cases i <;> simp [effectOf]

/-! ## Checks that pass -/

section Checks
variable {s : State}

theorem Phase.eq_opened_iff (p : Phase) : p = .opened ↔ p ≠ .dead ∧ p ≠ .finalized := by
  cases p <;> decide

theorem initChecks_pass : firstFailed (initChecks s) = none ↔
    (initOperands s.block).key.bufLen = Config.keyLen ∧ (initOperands s.block).nonce.bufLen = s.params.nonceLen ∧
    (initOperands s.block).rounds = Config.rounds ∧ (initOperands s.block).key.hFails s.params.hmemSize = false ∧
    (initOperands s.block).nonce.hFails s.params.hmemSize = false ∧
    (initOperands s.block).ad.hFails s.params.hmemSize = false ∧
    (initOperands s.block).ad.bufLen ≤ s.params.adCap := by
  simp [firstFailed_eq_none, initChecks, Descriptor.hCheck]

theorem updateByteChecks_pass : firstFailed (updateByteChecks s) = none ↔
    s.block.phase = .opened ∧ s.block.msg.length + 1 ≤ s.params.msgCap := by
  simp [firstFailed_eq_none, updateByteChecks, deadCheck, finalCheck, capacityCheck, Phase.eq_opened_iff, and_assoc]

theorem updateBlockChecks_pass : firstFailed (updateBlockChecks s) = none ↔
    s.block.phase = .opened ∧ (updateBlockOperand s.block).wFails = false ∧
    (updateBlockOperand s.block).hFails s.params.hmemSize = false ∧
    s.block.msg.length + (updateBlockOperand s.block).count ≤ s.params.msgCap := by
  simp [firstFailed_eq_none, updateBlockChecks, deadCheck, finalCheck, capacityCheck, Descriptor.wCheck,
    Descriptor.hCheck, Phase.eq_opened_iff, and_assoc]

theorem setTagChecks_pass : firstFailed (setTagChecks s) = none ↔
    s.block.phase = .opened ∧ (setTagOperand s.block).bufLen = Config.tagLen ∧
    (setTagOperand s.block).hFails s.params.hmemSize = false := by
  simp [firstFailed_eq_none, setTagChecks, deadCheck, finalCheck, Descriptor.hCheck, Phase.eq_opened_iff, and_assoc]

/-- The release gate lets a FINALIZE through in encrypt mode, and in decrypt mode where the comparator gives 0 (R203). -/
theorem releaseGate_pass (b : Block) :
    (∀ c ∈ releaseGate b, c.fails = false) ↔ (b.tagInSet = true → tagAccumulator b = 0) := by
  cases h : b.tagInSet <;> simp [releaseGate, h]

theorem finalizeChecks_pass : firstFailed (finalizeChecks s) = none ↔
    s.block.phase = .opened ∧ (finalizeOperand s.block).wFails = false ∧
    (finalizeOperand s.block).hFails s.params.hmemSize = false ∧
    (s.block.tagInSet = true → tagAccumulator s.block = 0) := by
  rw [← releaseGate_pass]
  simp [firstFailed_eq_none, finalizeChecks, deadCheck, finalCheck, Descriptor.wCheck, Descriptor.hCheck,
    Phase.eq_opened_iff, and_assoc]

theorem getTagChecks_pass : firstFailed (getTagChecks s) = none ↔
    s.block.phase ≠ .dead ∧ s.block.tagOutValid = true ∧ (getTagOperand s.block).wFails = false ∧
    (getTagOperand s.block).hFails s.params.hmemSize = false := by
  simp [firstFailed_eq_none, getTagChecks, deadCheck, Descriptor.wCheck, Descriptor.hCheck]

theorem resetChecks_pass : firstFailed [deadCheck s.block] = none ↔ s.block.phase ≠ .dead := by
  simp [firstFailed_eq_none, deadCheck]

end Checks

/-- A failing check is never reported as OK. -/
theorem ne_ok_of_firstFailed {i : Instr} {s : State} {e : ResultCode} (h : firstFailed (checksOf i s) = some e) :
    e ≠ .ok := by
  obtain ⟨c, hc, -, rfl⟩ := firstFailed_some h
  exact checksOf_code_ne_ok i s c hc

/-- Every command answers a next state, and what holds of that state where the command raises and where it has its effect
holds of it. -/
theorem exec_answers {i : Instr} {s : State} {P : State → Prop}
    (raises : ∀ e, firstFailed (checksOf i s) = some e → P (s.setLastErr e))
    (passes : firstFailed (checksOf i s) = none → P ((effectOf i s).setLastErr .ok)) :
    ∃ t, exec i s = .next t ∧ P t := by
  obtain ⟨e, hf, ho⟩ | ⟨hp, ho⟩ := exec_cases (i := i) (s := s) rfl
  · exact ⟨_, ho, raises e hf⟩
  · exact ⟨_, ho, passes hp⟩

/-! ## The CSR window and one host action -/

theorem csrReg_status : csrReg 0x04 = .status := rfl

theorem csrReg_arg (k : Fin 8) : csrReg (0x08 + 4 * k.val) = .arg k := by
  have h : 0x08 ≤ 0x08 + 4 * k.val ∧ 0x08 + 4 * k.val < 0x28 := by omega
  simp only [csrReg, dif_pos h]
  rw [if_neg (by omega), if_neg (by omega)]
  congr 2
  omega

theorem csrReg_reserved {off : Nat} (h : 0x28 ≤ off) : csrReg off = .reserved := by
  rw [csrReg, if_neg (by omega), if_neg (by omega), dif_neg (by omega)]

/-- CMD stands at offset 0 alone (R43). -/
theorem csrReg_eq_cmd {off : Nat} (h : csrReg off = .cmd) : off = cmdOffset := by
  unfold csrReg at h
  split at h
  · assumption
  · split at h
    · cases h
    · split at h <;> cases h

section Access
variable {s : State} {off : Nat} {w : Word} {rest : List HostAction}

theorem csrAccess_of_not_wf {a : CsrAccess} (h : a.wf = false) : csrAccess a s = .refused .csrAccessNotAligned32 := by
  simp [csrAccess, h]

theorem csrAccess_read (h : (CsrAccess.readAt off).wf = true) :
    csrAccess (.readAt off) s = .next (s.returnData (csrRead s.block (csrReg off))) := by
  simp [csrAccess, h]

theorem csrAccess_write (h : (CsrAccess.writeAt off w).wf = true) :
    csrAccess (.writeAt off w) s = csrWrite (csrReg off) w s := by
  simp [csrAccess, h]

/-- An aligned read answers the word of its register and takes the access from the queue (R43, R45). -/
theorem step_csrRead (h : s.pending = .csr (.readAt off) :: rest) (hal : off % 4 = 0) (hlt : off < 64) :
    step s = .next (({ s with pending := rest } : State).returnData (csrRead s.block (csrReg off))) := by
  rw [step_cons h]
  exact csrAccess_read ((CsrAccess.wf_iff _).2 ⟨rfl, hal, hlt⟩)

/-- An aligned write is the write of its register, on the state with the access taken from the queue (R43, R45). -/
theorem step_csrWrite (h : s.pending = .csr (.writeAt off w) :: rest) (hal : off % 4 = 0) (hlt : off < 64) :
    step s = csrWrite (csrReg off) w { s with pending := rest } := by
  rw [step_cons h]
  exact csrAccess_write ((CsrAccess.wf_iff _).2 ⟨rfl, hal, hlt⟩)

/-- A write of a word to CMD is the command step of that word (R44). -/
theorem step_command (h : s.pending = .csr (.command w) :: rest) :
    step s = runCommandWord w { s with pending := rest } :=
  step_csrWrite h rfl (by decide)

theorem runCommandWord_of_decode {i : Instr} (h : decode w = .ok i) : runCommandWord w s = exec i s := by
  simp [runCommandWord, h]

theorem runCommandWord_of_error {e : DecodeError} (h : decode w = .error e) :
    runCommandWord w s = .next (s.setLastErr .invalidCommand) := by
  simp [runCommandWord, h, raise]

theorem hostStore_inside {addr : Nat} {bytes : List Byte} (h : addr + bytes.length ≤ s.params.hmemSize) :
    hostStore addr bytes s = .next { s with hmem := memWrite s.hmem addr bytes } := if_pos h

theorem hostStore_outside {addr : Nat} {bytes : List Byte} (h : ¬addr + bytes.length ≤ s.params.hmemSize) :
    hostStore addr bytes s = .fault .hostStoreOutsideHmem := if_neg h

end Access

/-- Everything one host action that answers a next state can have done. -/
inductive HostMove (s : State) : State → Prop where
  /-- A CSR read. -/
  | returned (w : Word) : HostMove s (s.returnData w)
  /-- A write to STATUS or to a reserved word. -/
  | ignored : HostMove s s
  /-- A write to an ARG register. -/
  | argWritten (i : Fin 8) (w : Word) : HostMove s (s.writeArg i w)
  /-- A CMD write that raised. -/
  | raised (e : ResultCode) : HostMove s (s.setLastErr e)
  /-- A CMD write whose command had its effect. -/
  | ran (i : Instr) (pass : firstFailed (checksOf i s) = none) : HostMove s ((effectOf i s).setLastErr .ok)
  /-- A store into host memory. -/
  | stored (addr : Nat) (bytes : List Byte) (inside : addr + bytes.length ≤ s.params.hmemSize) :
      HostMove s { s with hmem := memWrite s.hmem addr bytes }
  /-- Assertion of the block's reset. -/
  | wasReset : HostMove s (assertReset s)

theorem runCommandWord_move {w : Word} {s t : State} (h : runCommandWord w s = .next t) : HostMove s t := by
  cases hd : decode w with
  | error e =>
    rw [runCommandWord_of_error hd] at h
    cases h
    exact .raised _
  | ok i =>
    rw [runCommandWord_of_decode hd] at h
    obtain ⟨e, -, ho⟩ | ⟨hp, ho⟩ := exec_cases h
    · cases ho
      exact .raised e
    · cases ho
      exact .ran i hp

theorem csrWrite_move {r : CsrReg} {w : Word} {s t : State} (h : csrWrite r w s = .next t) : HostMove s t := by
  cases r with
  | cmd => exact runCommandWord_move h
  | status => cases h; exact .ignored
  | arg i => cases h; exact .argWritten i w
  | reserved => cases h; exact .ignored

theorem csrAccess_move {a : CsrAccess} {s t : State} (h : csrAccess a s = .next t) : HostMove s t := by
  cases hw : a.wf with
  | false => rw [csrAccess_of_not_wf hw] at h; cases h
  | true =>
    simp only [csrAccess, hw, if_true] at h
    split at h
    · cases h
      exact .returned _
    · exact csrWrite_move h

/-- One host action does one of the moves. -/
theorem hostAction_move {a : HostAction} {s t : State} (h : hostAction a s = .next t) : HostMove s t := by
  cases a with
  | csr a => exact csrAccess_move h
  | hmemStore addr bytes =>
    by_cases hin : addr + bytes.length ≤ s.params.hmemSize
    · rw [hostAction, hostStore_inside hin] at h
      cases h
      exact .stored addr bytes hin
    · rw [hostAction, hostStore_outside hin] at h
      cases h
  | assertReset => cases h; exact .wasReset

end Sys2Proof.Machine
end

section
/-! PROOFS. The invariant of spec/10_state.md R48 holds at power-on and every step keeps it: O43, O44. -/

namespace Sys2Proof.Machine

/-! ## The block's invariant -/

section BlockInv
variable {p : Config.Params} {b : Block}

/-- The invariant says nothing of LAST_ERR and the ARG registers. -/
theorem Block.Inv.withLastErrArg (h : b.Inv p) (e : ResultCode) (a : Vector Word 8) :
    { b with lastErr := e, arg := a }.Inv p :=
  ⟨h.deadIsZero, h.macKeyDerived, h.tagOutOnlyFinal, h.finalIsEmpty, h.withinCapacity, h.tagOutZero, h.nonceWidth⟩

theorem Block.powerOn_inv (p : Config.Params) : (Block.powerOn p).Inv p where
  deadIsZero _ := ⟨rfl, rfl, rfl, rfl, rfl, rfl, rfl, rfl, rfl⟩
  macKeyDerived h := absurd rfl h
  tagOutOnlyFinal h := nomatch h
  finalIsEmpty h := nomatch h
  withinCapacity := ⟨Nat.zero_le _, Nat.zero_le _⟩
  tagOutZero _ := rfl
  nonceWidth := List.length_replicate

/-- By I3 no tag is retrievable while a message is assembled. -/
theorem Block.Inv.noTagOut_of_opened (h : b.Inv p) (ho : b.phase = .opened) : b.tagOutValid = false := by
  refine Bool.eq_false_iff.2 fun hv => ?_
  obtain ⟨hf, -⟩ := h.tagOutOnlyFinal hv
  simp [ho] at hf

/-- In OPEN the invariant leaves MSG free within MSG_CAP, and TAG_IN and the mode free. -/
theorem Block.Inv.withInput (h : b.Inv p) (ho : b.phase = .opened) {m : List Byte} (hm : m.length ≤ p.msgCap)
    (tag : Vector Byte 16) (mode : Bool) : { b with msg := m, tagIn := tag, tagInSet := mode }.Inv p where
  deadIsZero hd := by simp [ho] at hd
  macKeyDerived := h.macKeyDerived
  tagOutOnlyFinal hv := by simp [h.noTagOut_of_opened ho] at hv
  finalIsEmpty hf := by simp [ho] at hf
  withinCapacity := ⟨hm, h.withinCapacity.2⟩
  tagOutZero := h.tagOutZero
  nonceWidth := h.nonceWidth

/-- A live engine with an empty message and its tag registers cleared, in OPEN. -/
theorem Block.Inv.freshMessage (hmk : b.macKey = Config.KS b.key b.nonce 0 32) (had : b.ad.length ≤ p.adCap)
    (hn : b.nonce.length = p.nonceLen) :
    { b with
      msg := [], tagIn := zeros 16, tagInSet := false, tagOut := zeros 16, tagOutValid := false
      phase := .opened }.Inv p where
  deadIsZero h := nomatch h
  macKeyDerived _ := hmk
  tagOutOnlyFinal h := nomatch h
  finalIsEmpty h := nomatch h
  withinCapacity := ⟨Nat.zero_le _, had⟩
  tagOutZero _ := rfl
  nonceWidth := hn

/-- From OPEN to FINAL with an empty message; a tag comes out in encrypt mode only. -/
theorem Block.Inv.finalized (h : b.Inv p) (ho : b.phase = .opened) {tag : Vector Byte 16} {valid : Bool}
    (hv : valid = true → b.tagInSet = false) (ht : valid = false → tag = zeros 16) :
    { b with tagOut := tag, tagOutValid := valid, msg := [], phase := .finalized }.Inv p where
  deadIsZero hd := nomatch hd
  macKeyDerived _ := h.macKeyDerived (by simp [ho])
  tagOutOnlyFinal hval := ⟨rfl, hv hval⟩
  finalIsEmpty _ := rfl
  withinCapacity := ⟨Nat.zero_le _, h.withinCapacity.2⟩
  tagOutZero := ht
  nonceWidth := h.nonceWidth

end BlockInv

/-! ## The machine's invariant -/

section StateInv
variable {s : State}

/-- The invariant says nothing of the queue and the read data. -/
theorem State.Inv.withHostSide (h : s.Inv) (q : List HostAction) (r : Option Word) :
    { s with pending := q, readData := r }.Inv :=
  ⟨h.paramsWf, h.memCanonical, h.memInRange, h.blockInv⟩

theorem State.Inv.withBlock (h : s.Inv) {b : Block} (hb : b.Inv s.params) : { s with block := b }.Inv :=
  ⟨h.paramsWf, h.memCanonical, h.memInRange, hb⟩

theorem State.Inv.setLastErr (h : s.Inv) (e : ResultCode) : (s.setLastErr e).Inv :=
  h.withBlock (h.blockInv.withLastErrArg e _)

/-- A write inside host memory keeps the invariant. -/
theorem State.Inv.withStore (h : s.Inv) {addr : Nat} {vs : List Byte} (hin : addr + vs.length ≤ s.params.hmemSize) :
    { s with hmem := memWrite s.hmem addr vs }.Inv :=
  ⟨h.paramsWf, memWrite_wf h.memCanonical addr vs, memWrite_inRange h.memInRange addr vs hin, h.blockInv⟩

theorem State.powerOn_inv {p : Config.Params} (hp : p.wf = true) : (State.powerOn p).Inv :=
  ⟨hp, rfl, rfl, Block.powerOn_inv p⟩

/-! ## Every effect keeps it, where the command's checks pass -/

theorem deriveMacKey_eq (key : Vector Byte 32) (nonce : List Byte) : deriveMacKey key nonce = Config.KS key nonce 0 32 :=
  rfl

theorem State.Inv.initEffect (h : s.Inv) (hpass : firstFailed (initChecks s) = none) :
    (Machine.initEffect s).Inv := by
  obtain ⟨-, -, -, -, -, -, hcap⟩ := initChecks_pass.1 hpass
  refine h.withBlock (Block.Inv.freshMessage (b := (Machine.initEffect s).block) ?_ ?_ ?_)
  · rw [initEffect_block_macKey, deriveMacKey_eq, initEffect_block_key, initEffect_block_nonce]
  · simpa using hcap
  · simp

theorem State.Inv.updateByteEffect (h : s.Inv) (hpass : firstFailed (updateByteChecks s) = none) :
    (Machine.updateByteEffect s).Inv := by
  obtain ⟨ho, hcap⟩ := updateByteChecks_pass.1 hpass
  exact h.withBlock (h.blockInv.withInput ho (by simpa using hcap) _ _)

theorem State.Inv.updateBlockEffect (h : s.Inv) (hpass : firstFailed (updateBlockChecks s) = none) :
    (Machine.updateBlockEffect s).Inv := by
  obtain ⟨ho, hw, hh, hcap⟩ := updateBlockChecks_pass.1 hpass
  refine (h.withStore ?_).withBlock (h.blockInv.withInput ho ?_ _ _)
  · simpa using Descriptor.inside hw hh
  · simpa [updateBlockData] using hcap

theorem State.Inv.setTagEffect (h : s.Inv) (hpass : firstFailed (setTagChecks s) = none) :
    (Machine.setTagEffect s).Inv := by
  obtain ⟨ho, -⟩ := setTagChecks_pass.1 hpass
  exact h.withBlock (h.blockInv.withInput ho h.blockInv.withinCapacity.1 _ _)

theorem State.Inv.finalizeEffect (h : s.Inv) (hpass : firstFailed (finalizeChecks s) = none) :
    (Machine.finalizeEffect s).Inv := by
  obtain ⟨ho, hw, hh, -⟩ := finalizeChecks_pass.1 hpass
  have hin : (finalizeOperand s.block).start + (applyKeystream s.block s.block.msg).length ≤ s.params.hmemSize := by
    rw [applyKeystream_length]
    exact Descriptor.inside hw hh
  obtain ⟨-, he⟩ | ⟨hm, he⟩ := finalizeEffect_cases s
  · rw [he]
    have hv := h.blockInv.noTagOut_of_opened ho
    exact (h.withStore hin).withBlock (h.blockInv.finalized ho (by simp [hv]) h.blockInv.tagOutZero)
  · rw [he]
    exact (h.withStore hin).withBlock (h.blockInv.finalized ho (fun _ => hm) (by simp))

theorem State.Inv.getTagEffect (h : s.Inv) (hpass : firstFailed (getTagChecks s) = none) :
    (Machine.getTagEffect s).Inv := by
  obtain ⟨-, -, hw, hh⟩ := getTagChecks_pass.1 hpass
  refine h.withStore ?_
  rw [Vector.length_toList]
  exact Descriptor.inside hw hh

theorem State.Inv.resetEffect (h : s.Inv) (hpass : firstFailed [deadCheck s.block] = none) :
    (Machine.resetEffect s).Inv :=
  h.withBlock (Block.Inv.freshMessage (h.blockInv.macKeyDerived (resetChecks_pass.1 hpass))
    h.blockInv.withinCapacity.2 h.blockInv.nonceWidth)

theorem State.Inv.disposeEffect (h : s.Inv) : (Machine.disposeEffect s).Inv := by
  obtain ⟨-, he⟩ | ⟨-, he⟩ := disposeEffect_cases s
  · rwa [he]
  · rw [he]
    exact h.withBlock ((Block.powerOn_inv s.params).withLastErrArg s.block.lastErr s.block.arg)

theorem State.Inv.effectOf (h : s.Inv) {i : Instr} (hpass : firstFailed (checksOf i s) = none) :
    (Machine.effectOf i s).Inv := by
  cases i with
  | init => exact h.initEffect hpass
  | updateByte => exact h.updateByteEffect hpass
  | updateBlock => exact h.updateBlockEffect hpass
  | setTag => exact h.setTagEffect hpass
  | finalize => exact h.finalizeEffect hpass
  | getTag => exact h.getTagEffect hpass
  | reset => exact h.resetEffect hpass
  | dispose => exact h.disposeEffect

/-- Every move of the host keeps the invariant. -/
theorem State.Inv.hostMove (h : s.Inv) {t : State} (hmove : HostMove s t) : t.Inv := by
  cases hmove with
  | returned w => exact h.withHostSide s.pending (some w)
  | ignored => exact h
  | argWritten i w => exact h.withBlock (h.blockInv.withLastErrArg _ _)
  | raised e => exact h.setLastErr e
  | ran i pass => exact (h.effectOf pass).setLastErr .ok
  | stored addr bytes inside => exact h.withStore inside
  | wasReset => exact h.withBlock (Block.powerOn_inv s.params)

theorem State.Inv.step (h : s.Inv) {t : State} (hstep : Machine.step s = .next t) : t.Inv := by
  cases hq : s.pending with
  | nil =>
    rw [step_nil hq] at hstep
    cases hstep
    exact h
  | cons a rest =>
    rw [step_cons hq] at hstep
    exact (h.withHostSide rest s.readData).hostMove (hostAction_move hstep)

end StateInv

/-- The opaque parameters are cut to the ranges of R7. -/
theorem implementation_wf : Config.implementation.wf = true := by
  refine (Config.Params.wf_iff _).2 ⟨Nat.min_le_right .., Nat.min_le_right .., Nat.le_add_right .., ?_⟩
  have : Config.hmemSizeChoice % Config.hmemSizeBound < Config.hmemSizeBound := Nat.mod_lt _ (by decide)
  show 1 + Config.hmemSizeChoice % Config.hmemSizeBound ≤ Config.hmemSizeBound
  omega

/-- Settles O44: a step idles or takes one move of the host, and each effect keeps the invariant because the command's checks
have bounded what it writes. -/
theorem invariantKeptByEveryStep : Obligations.InvariantKeptByEveryStep :=
  ⟨fun _ hp => State.powerOn_inv hp, fun _ _ hs hstep => hs.step hstep⟩

/-- Settles O43: reset is power-on under parameters cut to their ranges. -/
theorem invariantHoldsAtReset : Obligations.InvariantHoldsAtReset := State.powerOn_inv implementation_wf

end Sys2Proof.Machine
end

section
/-! PROOFS. The confidentiality of spec/10_state.md R42 as noninterference: O58. -/

namespace Sys2Proof.Machine

/-- Two outcomes the host cannot tell apart. -/
inductive SameOutcome : Host.Outcome State Fault Refusal → Host.Outcome State Fault Refusal → Prop where
  | next {s t : State} (h : SameToHost s t) : SameOutcome (.next s) (.next t)
  | fault (r : Fault) : SameOutcome (.fault r) (.fault r)
  | refused (r : Refusal) : SameOutcome (.refused r) (.refused r)

section Outcomes
variable {o : Host.Outcome State Fault Refusal}

theorem SameOutcome.of_next {s : State} (h : SameOutcome (.next s) o) : ∃ t, o = .next t ∧ SameToHost s t := by
  cases h with
  | next h => exact ⟨_, rfl, h⟩

theorem SameOutcome.of_fault {r : Fault} (h : SameOutcome (.fault r) o) : o = .fault r := by
  cases h
  rfl

theorem SameOutcome.of_refused {r : Refusal} (h : SameOutcome (.refused r) o) : o = .refused r := by
  cases h
  rfl

end Outcomes

/-! ## What an observer of the block sees equal -/

section Observable
variable {a b : Block}

theorem SameObservable.argU (h : SameObservable a b) (i : Fin 8) : a.argU i = b.argU i := by
  simp [Block.argU, h.arg]

theorem SameObservable.argS (h : SameObservable a b) (i : Fin 8) : a.argS i = b.argS i := by
  simp [Block.argS, h.arg]

/-- Operands come from the ARG registers and MSG_LEN alone. -/
theorem SameObservable.initOperands (h : SameObservable a b) : initOperands a = initOperands b := by
  simp [Machine.initOperands, h.argU]

theorem SameObservable.updateBlockOperand (h : SameObservable a b) : updateBlockOperand a = updateBlockOperand b := by
  simp [Machine.updateBlockOperand, h.argU, h.argS]

theorem SameObservable.setTagOperand (h : SameObservable a b) : setTagOperand a = setTagOperand b := by
  simp [Machine.setTagOperand, h.argU]

theorem SameObservable.finalizeOperand (h : SameObservable a b) : finalizeOperand a = finalizeOperand b := by
  simp only [Machine.finalizeOperand, h.argU, h.argS, h.msgLen]

theorem SameObservable.getTagOperand (h : SameObservable a b) : getTagOperand a = getTagOperand b := by
  simp [Machine.getTagOperand, h.argU, h.argS]

theorem SameObservable.deadCheck (h : SameObservable a b) : deadCheck a = deadCheck b := by
  rw [Machine.deadCheck, h.phase, Machine.deadCheck]

theorem SameObservable.finalCheck (h : SameObservable a b) : finalCheck a = finalCheck b := by
  rw [Machine.finalCheck, h.phase, Machine.finalCheck]

/-- A CSR read shows the same word (R41, R43). -/
theorem SameObservable.csrRead (h : SameObservable a b) (r : CsrReg) : csrRead a r = csrRead b r := by
  cases r with
  | cmd => rfl
  | status => simp only [Machine.csrRead, statusWord, Block.mode, h.phase, h.mode, h.tagOutValid, h.lastErr]
  | arg i => simp only [Machine.csrRead, h.arg]
  | reserved => rfl

/-- The release gate shows the outcome of the comparison and nothing else of the tags. -/
theorem SameObservable.releaseGate (h : SameObservable a b) (hd : SameDisclosed a b) : releaseGate a = releaseGate b := by
  simp only [Machine.releaseGate, h.mode, ne_eq, hd.tagMatch]

end Observable

/-! ## Updates that keep two machines indistinguishable -/

section SameMachines
variable {s t : State}

theorem SameToHost.setLastErr (h : SameToHost s t) (e : ResultCode) :
    SameToHost (s.setLastErr e) (t.setLastErr e) where
  params := h.params
  block := { h.block with lastErr := rfl }
  hmem := h.hmem
  pending := h.pending
  readData := h.readData

theorem SameToHost.writeArg (h : SameToHost s t) (i : Fin 8) (w : Word) :
    SameToHost (s.writeArg i w) (t.writeArg i w) where
  params := h.params
  block := { h.block with arg := by simp [h.block.arg] }
  hmem := h.hmem
  pending := h.pending
  readData := h.readData

theorem SameToHost.returnData (h : SameToHost s t) (w : Word) : SameToHost (s.returnData w) (t.returnData w) :=
  { h with readData := rfl }

theorem SameToHost.withPending (h : SameToHost s t) (q : List HostAction) :
    SameToHost { s with pending := q } { t with pending := q } :=
  { h with pending := rfl }

theorem SameToHost.withHmem (h : SameToHost s t) {m m' : Memory} (hm : m = m') :
    SameToHost { s with hmem := m } { t with hmem := m' } :=
  { h with hmem := hm }

theorem SameToHost.withBlock (h : SameToHost s t) {a b : Block} (hb : SameObservable a b) :
    SameToHost { s with block := a } { t with block := b } :=
  { h with block := hb }

theorem SameToHost.assertReset (h : SameToHost s t) : SameToHost (assertReset s) (assertReset t) := by
  refine h.withBlock ?_
  rw [h.params]
  exact ⟨rfl, rfl, rfl, rfl, rfl, rfl⟩

/-! ## Commands -/

theorem SameToHost.capacityCheck (h : SameToHost s t) (k : Nat) : capacityCheck s k = capacityCheck t k := by
  simp only [Machine.capacityCheck, h.block.msgLen, h.params]

/-- Two machines that look the same to the host run the same checks; FINALIZE's last one shows the outcome of the comparison. -/
theorem SameToHost.checksOf (h : SameToHost s t) {i : Instr} (hd : i = .finalize → SameDisclosed s.block t.block) :
    checksOf i s = checksOf i t := by
  have hb := h.block
  cases i with
  | init => simp only [Machine.checksOf, initChecks, hb.initOperands, h.params]
  | updateByte => simp only [Machine.checksOf, updateByteChecks, hb.deadCheck, hb.finalCheck, h.capacityCheck]
  | updateBlock =>
    simp only [Machine.checksOf, updateBlockChecks, hb.deadCheck, hb.finalCheck, hb.updateBlockOperand,
      h.capacityCheck, h.params]
  | setTag =>
    simp only [Machine.checksOf, setTagChecks, hb.deadCheck, hb.finalCheck, hb.setTagOperand, h.params]
  | finalize =>
    simp only [Machine.checksOf, finalizeChecks, hb.deadCheck, hb.finalCheck, hb.finalizeOperand, h.params,
      hb.releaseGate (hd rfl)]
  | getTag => simp only [Machine.checksOf, getTagChecks, hb.deadCheck, hb.getTagOperand, hb.tagOutValid, h.params]
  | reset => simp only [Machine.checksOf, hb.deadCheck]
  | dispose => rfl

theorem SameToHost.updateBlockEffect (h : SameToHost s t) :
    SameToHost (updateBlockEffect s) (updateBlockEffect t) := by
  have hlen : (Machine.updateBlockEffect s).block.msgLen = (Machine.updateBlockEffect t).block.msgLen := by
    have hmsg : s.block.msg.length = t.block.msg.length := h.block.msgLen
    simp [updateBlockData, hmsg, h.block.updateBlockOperand]
  refine (h.withHmem ?_).withBlock { h.block with msgLen := hlen }
  rw [h.hmem, h.block.updateBlockOperand]

/-- Both paths of FINALIZE write the output bytes, and nothing else the host sees depends on the secrets. -/
theorem SameToHost.finalizeEffect (h : SameToHost s t) (hd : SameDisclosed s.block t.block) :
    SameToHost (finalizeEffect s) (finalizeEffect t) := by
  have hout : memWrite s.hmem (finalizeOperand s.block).start (applyKeystream s.block s.block.msg) =
      memWrite t.hmem (finalizeOperand t.block).start (applyKeystream t.block t.block.msg) := by
    rw [h.hmem, h.block.finalizeOperand, hd.output]
  obtain ⟨hm, he⟩ | ⟨hm, he⟩ := finalizeEffect_cases s
  · rw [he, finalizeEffect_of_decrypt (h.block.mode ▸ hm)]
    exact (h.withHmem hout).withBlock { h.block with phase := rfl, msgLen := rfl }
  · rw [he, finalizeEffect_of_encrypt (h.block.mode ▸ hm)]
    exact (h.withHmem hout).withBlock { h.block with phase := rfl, tagOutValid := rfl, msgLen := rfl }

theorem SameToHost.getTagEffect (h : SameToHost s t) (hd : SameDisclosed s.block t.block) :
    SameToHost (getTagEffect s) (getTagEffect t) := by
  refine h.withHmem ?_
  rw [h.hmem, h.block.getTagOperand, hd.tagOut]

theorem SameToHost.disposeEffect (h : SameToHost s t) : SameToHost (disposeEffect s) (disposeEffect t) := by
  obtain ⟨hp, he⟩ | ⟨hp, he⟩ := disposeEffect_cases s
  · rwa [he, disposeEffect_of_dead (h.block.phase ▸ hp)]
  · rw [he, disposeEffect_of_alive (h.block.phase ▸ hp)]
    exact h.withBlock ⟨rfl, rfl, rfl, h.block.lastErr, h.block.arg, rfl⟩

/-- An effect keeps two machines indistinguishable, given what FINALIZE and GET_TAG disclose (R42). -/
theorem SameToHost.effectOf (h : SameToHost s t) {i : Instr}
    (hd : i = .finalize ∨ i = .getTag → SameDisclosed s.block t.block) :
    SameToHost (effectOf i s) (effectOf i t) := by
  have hb := h.block
  cases i with
  | init => exact h.withBlock ⟨rfl, rfl, rfl, hb.lastErr, hb.arg, rfl⟩
  | updateByte =>
    have hmsg : s.block.msg.length = t.block.msg.length := hb.msgLen
    exact h.withBlock { hb with msgLen := by simp [hmsg] }
  | updateBlock => exact h.updateBlockEffect
  | setTag => exact h.withBlock { hb with mode := rfl }
  | finalize => exact h.finalizeEffect (hd (.inl rfl))
  | getTag => exact h.getTagEffect (hd (.inr rfl))
  | reset => exact h.withBlock ⟨rfl, rfl, rfl, hb.lastErr, hb.arg, rfl⟩
  | dispose => exact h.disposeEffect

theorem SameToHost.exec (h : SameToHost s t) {i : Instr}
    (hd : i = .finalize ∨ i = .getTag → SameDisclosed s.block t.block) : SameOutcome (exec i s) (exec i t) := by
  have hchecks : Machine.checksOf i s = Machine.checksOf i t := h.checksOf fun hi => hd (.inl hi)
  cases hf : firstFailed (Machine.checksOf i s) with
  | some e =>
    rw [exec_of_fail hf, exec_of_fail (hchecks ▸ hf)]
    exact .next (h.setLastErr e)
  | none =>
    rw [exec_of_pass hf, exec_of_pass (hchecks ▸ hf)]
    exact .next ((h.effectOf hd).setLastErr .ok)

theorem SameToHost.runCommandWord (h : SameToHost s t) {w : Word}
    (hd : decode w = .ok .finalize ∨ decode w = .ok .getTag → SameDisclosed s.block t.block) :
    SameOutcome (runCommandWord w s) (runCommandWord w t) := by
  cases hw : decode w with
  | error e =>
    rw [runCommandWord_of_error hw, runCommandWord_of_error hw]
    exact .next (h.setLastErr _)
  | ok i =>
    rw [runCommandWord_of_decode hw, runCommandWord_of_decode hw]
    refine h.exec fun hi => hd ?_
    rcases hi with rfl | rfl
    · exact .inl hw
    · exact .inr hw

/-! ## Host actions -/

/-- The disclosure an action needs: only a CMD write of FINALIZE or GET_TAG has any. -/
def Discloses (a : HostAction) (s t : State) : Prop :=
  ∀ w, a = .csr (.command w) → (decode w = .ok .finalize ∨ decode w = .ok .getTag) → SameDisclosed s.block t.block

theorem SameToHost.csrAccess (h : SameToHost s t) {a : CsrAccess} (hd : Discloses (.csr a) s t) :
    SameOutcome (csrAccess a s) (csrAccess a t) := by
  cases hw : a.wf with
  | false =>
    rw [csrAccess_of_not_wf hw, csrAccess_of_not_wf hw]
    exact .refused _
  | true =>
    obtain ⟨hsize, -⟩ := (CsrAccess.wf_iff a).1 hw
    obtain ⟨dir, off, size⟩ := a
    obtain rfl : size = 4 := hsize
    cases dir with
    | read =>
      rw [csrAccess_read hw, csrAccess_read hw, h.block.csrRead]
      exact .next (h.returnData _)
    | write w =>
      rw [csrAccess_write hw, csrAccess_write hw]
      cases hr : csrReg off with
      | cmd =>
        obtain rfl := csrReg_eq_cmd hr
        exact h.runCommandWord (hd w rfl)
      | status => exact .next h
      | arg i => exact .next (h.writeArg i w)
      | reserved => exact .next h

theorem SameToHost.hostStore (h : SameToHost s t) (addr : Nat) (bytes : List Byte) :
    SameOutcome (hostStore addr bytes s) (hostStore addr bytes t) := by
  by_cases hin : addr + bytes.length ≤ s.params.hmemSize
  · rw [hostStore_inside hin, hostStore_inside (h.params ▸ hin)]
    exact .next (h.withHmem (by rw [h.hmem]))
  · rw [hostStore_outside hin, hostStore_outside (h.params ▸ hin)]
    exact .fault _

theorem SameToHost.hostAction (h : SameToHost s t) {a : HostAction} (hd : Discloses a s t) :
    SameOutcome (hostAction a s) (hostAction a t) := by
  cases a with
  | csr a => exact h.csrAccess hd
  | hmemStore addr bytes => exact h.hostStore addr bytes
  | assertReset => exact .next h.assertReset

theorem SameToHost.step (h : SameToHost s t)
    (hd : ∀ a rest, s.pending = a :: rest → Discloses a s t) : SameOutcome (step s) (step t) := by
  cases hq : s.pending with
  | nil =>
    rw [step_nil hq, step_nil (h.pending ▸ hq)]
    exact .next h
  | cons a rest =>
    rw [step_cons hq, step_cons (h.pending ▸ hq)]
    exact (h.withPending rest).hostAction (hd a rest hq)

end SameMachines

/-- Settles O58: the checks and the effects read only what the host sees, but for the values FINALIZE and GET_TAG disclose. -/
theorem secretsReachTheHostOnlyAsDisclosed : Obligations.SecretsReachTheHostOnlyAsDisclosed := by
  intro s t h hd
  have hsame : SameOutcome (step s) (step t) := by
    refine h.step fun a rest hq w ha => ?_
    subst ha
    exact hd w rest hq
  exact ⟨fun _ hs => (hs ▸ hsame).of_next, fun _ hs => (hs ▸ hsame).of_fault, fun _ hs => (hs ▸ hsame).of_refused⟩

end Sys2Proof.Machine
end

section
/-! PROOFS. What the commands leave alone, and how PHASE and the mode move (spec/10_state.md R30 to R40, R47): O30, O31, O32, O33,
O42. -/

namespace Sys2Proof.Machine

/-- Settles O30: a raise writes LAST_ERR alone, and no effect writes the four elements. -/
theorem commandsLeaveArgRegisters : Obligations.CommandsLeaveArgRegisters := fun i s =>
  exec_answers (fun _ _ => ⟨rfl, rfl, rfl, rfl⟩) fun _ => by simp

/-- An effect other than INIT's and DISPOSE's leaves the engine's key material alone (R33 to R36). -/
theorem effectOf_keepsKeyMaterial {i : Instr} (hinit : i ≠ .init) (hdispose : i ≠ .dispose) (s : State) :
    (effectOf i s).block.key = s.block.key ∧ (effectOf i s).block.nonce = s.block.nonce ∧
    (effectOf i s).block.macKey = s.block.macKey ∧ (effectOf i s).block.ad = s.block.ad := by
  cases i with
  | init => exact absurd rfl hinit
  | dispose => exact absurd rfl hdispose
  | updateByte | updateBlock | setTag | finalize | getTag | reset => simp [effectOf]

/-- Settles O31: a raise writes LAST_ERR alone, and the effects of the six other commands keep the key material. -/
theorem keyMaterialHasTwoWriters : Obligations.KeyMaterialHasTwoWriters := fun _ s hinit hdispose =>
  exec_answers (fun _ _ => ⟨rfl, rfl, rfl, rfl⟩) fun _ => effectOf_keepsKeyMaterial hinit hdispose s

section TagRegisters
variable {i : Instr} (hinit : i ≠ .init) (hreset : i ≠ .reset) (hdispose : i ≠ .dispose) (s : State)
include hinit hreset hdispose

/-- TAG_IN and the mode are written by SET_TAG, and cleared by INIT, RESET and DISPOSE (R38). -/
theorem effectOf_keepsTagIn (hset : i ≠ .setTag) :
    (effectOf i s).block.tagIn = s.block.tagIn ∧ (effectOf i s).block.tagInSet = s.block.tagInSet := by
  cases i with
  | init => exact absurd rfl hinit
  | reset => exact absurd rfl hreset
  | dispose => exact absurd rfl hdispose
  | setTag => exact absurd rfl hset
  | updateByte | updateBlock | finalize | getTag => simp [effectOf]

/-- TAG_OUT is written by FINALIZE in encrypt mode, and cleared by INIT, RESET and DISPOSE (R39). -/
theorem effectOf_keepsTagOut (hfin : i ≠ .finalize ∨ s.block.tagInSet = true) :
    (effectOf i s).block.tagOut = s.block.tagOut ∧ (effectOf i s).block.tagOutValid = s.block.tagOutValid := by
  cases i with
  | init => exact absurd rfl hinit
  | reset => exact absurd rfl hreset
  | dispose => exact absurd rfl hdispose
  | finalize =>
    have hmode : s.block.tagInSet = true := hfin.resolve_left (absurd rfl)
    simp [effectOf, hmode]
  | updateByte | updateBlock | setTag | getTag => simp [effectOf]

/-- No other effect takes the mode from decrypt back to encrypt (R192). -/
theorem effectOf_keepsDecryptMode (hmode : s.block.tagInSet = true) : (effectOf i s).block.tagInSet = true := by
  by_cases hset : i = .setTag
  · rw [hset]
    rfl
  · rw [(effectOf_keepsTagIn hinit hreset hdispose s hset).2, hmode]

end TagRegisters

/-- Settles O32, from the effects' frames on TAG_IN and on TAG_OUT. -/
theorem tagRegistersHaveTheirWriters : Obligations.TagRegistersHaveTheirWriters :=
  fun _ s hinit hreset hdispose =>
    exec_answers (fun _ _ => ⟨fun _ => ⟨rfl, rfl⟩, fun _ => ⟨rfl, rfl⟩⟩) fun _ =>
      ⟨effectOf_keepsTagIn hinit hreset hdispose s, effectOf_keepsTagOut hinit hreset hdispose s⟩

/-- Settles O33: a raise keeps the mode, and so does every effect but those of the three commands. -/
theorem modeNeverReturnsToEncrypt : Obligations.ModeNeverReturnsToEncrypt := fun i s hmode =>
  exec_answers (fun e _ hclear => by simp [hmode] at hclear) fun _ hclear => by
    refine ⟨?_, rfl⟩
    by_contra hother
    push Not at hother
    obtain ⟨hinit, hreset, hdispose⟩ := hother
    have hkept := effectOf_keepsDecryptMode hinit hreset hdispose s hmode
    simp [hkept] at hclear

/-- An effect moves PHASE as the table of R32 says, where the command's checks pass. -/
theorem effectOf_phaseMoves {i : Instr} {s : State} (hinv : s.block.Inv s.params)
    (hpass : firstFailed (checksOf i s) = none) :
    phaseMoves i s.block.phase (effectOf i s).block.phase = true := by
  cases i with
  | init => rfl
  | updateByte =>
    obtain ⟨ho, -⟩ := updateByteChecks_pass.1 hpass
    simp [effectOf, phaseMoves, ho]
  | updateBlock =>
    obtain ⟨ho, -⟩ := updateBlockChecks_pass.1 hpass
    simp [effectOf, phaseMoves, ho]
  | setTag =>
    obtain ⟨ho, -⟩ := setTagChecks_pass.1 hpass
    simp [effectOf, phaseMoves, ho]
  | finalize =>
    obtain ⟨ho, -⟩ := finalizeChecks_pass.1 hpass
    simp [effectOf, phaseMoves, ho]
  | getTag =>
    obtain ⟨-, hvalid, -⟩ := getTagChecks_pass.1 hpass
    obtain ⟨hfinal, -⟩ := hinv.tagOutOnlyFinal hvalid
    simp [effectOf, phaseMoves, hfinal]
  | reset =>
    have halive := resetChecks_pass.1 hpass
    simp [effectOf, phaseMoves, halive]
  | dispose => simp [effectOf, phaseMoves]

/-- Settles O42: OK is reported only where the checks passed, so the effect's move decides. -/
theorem phaseTransitions : Obligations.PhaseTransitions := fun _ _ hinv =>
  exec_answers (fun _ hf => ⟨fun hok => absurd hok (ne_ok_of_firstFailed hf), fun _ => rfl⟩) fun hpass =>
    ⟨fun _ => effectOf_phaseMoves hinv hpass, fun hne => absurd rfl hne⟩

end Sys2Proof.Machine
end

section
/-! PROOFS. The CSR window and STATUS (spec/10_state.md R41 to R46): O7, O8, O9, O11, O13. -/

namespace Sys2Proof.Machine

/-! ## Accesses as steps -/

section Steps
variable {s : State} {w : Word} {off : Nat} {rest : List HostAction}

theorem step_readCmd (h : s.pending = .csr (.readAt 0x00) :: rest) :
    step s = .next { s with pending := rest, readData := some 0 } :=
  step_csrRead h rfl (by decide)

theorem step_readStatus (h : s.pending = .csr (.readAt 0x04) :: rest) :
    step s = .next { s with pending := rest, readData := some (statusWord s.block) } :=
  step_csrRead h rfl (by decide)

theorem step_readArg {k : Fin 8} (h : s.pending = .csr (.readAt (0x08 + 4 * k.val)) :: rest) :
    step s = .next { s with pending := rest, readData := some s.block.arg[k] } := by
  rw [step_csrRead h (by omega) (by omega), csrReg_arg]
  rfl

theorem step_readReserved (h : s.pending = .csr (.readAt off) :: rest) (hlo : 0x28 ≤ off) (hhi : off ≤ 0x3C)
    (hal : off % 4 = 0) : step s = .next { s with pending := rest, readData := some 0 } := by
  rw [step_csrRead h hal (by omega), csrReg_reserved hlo]
  rfl

theorem step_writeStatus (h : s.pending = .csr (.writeAt 0x04 w) :: rest) :
    step s = .next { s with pending := rest } :=
  step_csrWrite h rfl (by decide)

theorem step_writeArg {k : Fin 8} (h : s.pending = .csr (.writeAt (0x08 + 4 * k.val) w) :: rest) :
    step s = .next { s with pending := rest, block := { s.block with arg := s.block.arg.set k w } } := by
  rw [step_csrWrite h (by omega) (by omega), csrReg_arg]
  rfl

theorem step_writeReserved (h : s.pending = .csr (.writeAt off w) :: rest) (hlo : 0x28 ≤ off) (hhi : off ≤ 0x3C)
    (hal : off % 4 = 0) : step s = .next { s with pending := rest } := by
  rw [step_csrWrite h hal (by omega), csrReg_reserved hlo]
  rfl

end Steps

/-- Settles O7: a CMD write is the command step of its word. -/
theorem stepRunsTheDecodedCommand : Obligations.StepRunsTheDecodedCommand := by
  refine fun s w rest => ⟨fun h => ⟨fun i hd => ?_, fun e hd => ?_⟩, step_readCmd⟩
  · rw [step_command h, runCommandWord_of_decode hd]
  · rw [step_command h, runCommandWord_of_error hd]

/-- Settles O8, one access rule for each kind of register. -/
theorem csrWindowMap : Obligations.CsrWindowMap := by
  refine fun s off w rest => ⟨fun h => ⟨?_, ?_, fun k => ?_, step_readReserved h⟩,
    fun h => ⟨?_, ?_, fun k => ?_, step_writeReserved h⟩⟩ <;> rintro rfl
  · exact step_readCmd h
  · exact step_readStatus h
  · exact step_readArg h
  · exact step_command h
  · exact step_writeStatus h
  · exact step_writeArg h

/-- A command word always has a step. -/
theorem runCommandWord_answers (w : Word) (s : State) : ∃ t, runCommandWord w s = .next t := by
  cases hd : decode w with
  | error e => exact ⟨_, runCommandWord_of_error hd⟩
  | ok i =>
    rw [runCommandWord_of_decode hd]
    obtain ⟨t, ht, -⟩ := exec_answers (i := i) (s := s) (P := fun _ => True) (fun _ _ => trivial) fun _ => trivial
    exact ⟨t, ht⟩

theorem csrAccess_answers {a : CsrAccess} (h : a.wf = true) (s : State) : ∃ t, csrAccess a s = .next t := by
  simp only [csrAccess, h, if_true]
  cases a.dir with
  | read => exact ⟨_, rfl⟩
  | write w =>
    cases csrReg a.offset with
    | cmd => exact runCommandWord_answers w s
    | status | arg i | reserved => exact ⟨_, rfl⟩

/-- Settles O11: the three conditions are the access's own well-formedness check. -/
theorem onlyAlignedWordAccessesHaveAStep : Obligations.OnlyAlignedWordAccessesHaveAStep := by
  intro s a rest h
  rw [step_cons h, ← CsrAccess.wf_iff]
  exact ⟨fun hw => csrAccess_answers hw _, fun hw => csrAccess_of_not_wf (Bool.eq_false_iff.2 hw)⟩

/-- Settles O13: offset 4k+i splits into the word's index and the byte's. -/
theorem csrWindowIsLittleEndian : Obligations.CsrWindowIsLittleEndian := by
  intro b k i _ hi
  have hword : (4 * k + i) / 4 = k := by omega
  have hbyte : (4 * k + i) % 4 = i := by omega
  rw [csrWindowByte, hword, hbyte, BitVec.extractLsb'_toNat, Nat.shiftRight_eq_div_pow]

/-! ## STATUS -/

/-- The number of a word laid out as two fields. -/
theorem toNat_append_eq_add {m n : Nat} (x : BitVec m) (y : BitVec n) :
    (x ++ y).toNat = 2 ^ n * x.toNat + y.toNat := by
  rw [BitVec.toNat_append, ← Nat.shiftLeft_add_eq_or_of_lt y.isLt, Nat.shiftLeft_eq, Nat.mul_comm]

/-- STATUS as a number: its fields by their weights (R41). -/
theorem statusWord_toNat (b : Block) :
    (statusWord b).toNat =
      b.phase.encoding.toNat + 4 * b.tagInSet.toNat + 8 * b.tagOutValid.toNat + 16 * b.lastErr.code.toNat := by
  simp only [statusWord, Block.mode, toNat_append_eq_add, BitVec.toNat_ofBool, BitVec.toNat_ofNat]
  omega

/-- Each field of the STATUS word read back from its number (R41). -/
theorem statusWord_fields (b : Block) :
    (statusWord b).toNat % 4 = b.phase.encoding.toNat ∧ (statusWord b).toNat / 4 % 2 = b.tagInSet.toNat ∧
    (statusWord b).toNat / 8 % 2 = b.tagOutValid.toNat ∧ (statusWord b).toNat / 16 % 16 = b.lastErr.code.toNat ∧
    (statusWord b).toNat / 256 = 0 := by
  have hphase := b.phase.encoding.isLt
  have hcode := b.lastErr.code.isLt
  have hmode := b.tagInSet.toNat_lt
  have hvalid := b.tagOutValid.toNat_lt
  rw [statusWord_toNat]
  omega

theorem statusWord_powerOn (p : Config.Params) : statusWord (Block.powerOn p) = 0 := by
  apply BitVec.eq_of_toNat_eq
  rw [statusWord_toNat]
  rfl

/-- Settles O9, from the number of the STATUS word. -/
theorem statusFieldsAtTheirBits : Obligations.StatusFieldsAtTheirBits := by
  refine ⟨fun b => ?_, statusWord_powerOn, fun s w rest => ⟨step_readStatus, step_writeStatus⟩⟩
  obtain ⟨hphase, hmode, hvalid, hcode, hrest⟩ := statusWord_fields b
  refine ⟨hphase.trans ?_, hmode, hvalid, hcode.trans ?_, hrest⟩
  · cases b.phase <;> rfl
  · cases b.lastErr <;> rfl

end Sys2Proof.Machine
end

section
/-! PROOFS. Host memory (spec/20_memory.md R71, R80, R84): what a host store does, the idle step, and the commands that write no
host byte: O14, O15, O29. -/

namespace Sys2Proof.Machine

/-- `MemRead` of the range just written gives the written bytes back. -/
theorem memRead_memWrite {m : Memory} (hm : Memory.wf m = true) (addr : Nat) (vs : List Byte) :
    (memRead (memWrite m addr vs) addr vs.length).toList = vs := by
  refine List.ext_getElem (Vector.length_toList ..) fun i _ hi => ?_
  rw [Vector.getElem_toList, memRead_getElem, memWrite_read_inside hm hi]

section Store
variable {s : State} {addr : Nat} {bytes : List Byte} {rest : List HostAction}
  (h : s.pending = .hmemStore addr bytes :: rest)
include h

/-- A store into host memory writes its bytes and leaves the queue (R84). -/
theorem step_hmemStore_inside (hin : addr + bytes.length ≤ s.params.hmemSize) :
    step s = .next { s with pending := rest, hmem := memWrite s.hmem addr bytes } :=
  (step_cons h).trans (hostStore_inside hin)

/-- A store that leaves host memory faults (log 11). -/
theorem step_hmemStore_outside (hout : ¬addr + bytes.length ≤ s.params.hmemSize) :
    step s = .fault .hostStoreOutsideHmem :=
  (step_cons h).trans (hostStore_outside hout)

end Store

/-- Settles O14: a store that fits is one `MemWrite`, which is read back inside its range and has no effect outside it. -/
theorem hostStoreReachesHostMemoryOnly : Obligations.HostStoreReachesHostMemoryOnly := by
  refine fun s addr bytes rest h hwf => ⟨fun hin => ?_, fun hout => step_hmemStore_outside h hout.not_ge⟩
  exact ⟨_, step_hmemStore_inside h hin, memRead_memWrite hwf addr bytes, fun _ => memWrite_read_outside hwf,
    rfl, rfl, rfl, rfl⟩

/-- Settles O15: an empty queue is the idle branch of the step. -/
theorem blockIdlesWithoutAHostAction : Obligations.BlockIdlesWithoutAHostAction := fun _ => step_nil

@[simp] theorem disposeEffect_hmem (s : State) : (disposeEffect s).hmem = s.hmem := by
  obtain ⟨-, h⟩ | ⟨-, h⟩ := disposeEffect_cases s
  · rw [h]
  · rw [h, zeroize_hmem]

/-- Only UPDATE_BLOCK, FINALIZE and GET_TAG have an effect on host memory (R71). -/
theorem effectOf_keepsHmem {i : Instr} (hblock : i ≠ .updateBlock) (hfinalize : i ≠ .finalize) (hgetTag : i ≠ .getTag)
    (s : State) : (effectOf i s).hmem = s.hmem := by
  cases i with
  | updateBlock => exact absurd rfl hblock
  | finalize => exact absurd rfl hfinalize
  | getTag => exact absurd rfl hgetTag
  | init | updateByte | setTag | reset | dispose => simp [effectOf]

/-- Settles O29: a raise writes LAST_ERR alone, and the effects of the five commands keep host memory. -/
theorem commandsWithoutOutputKeepHostMemory : Obligations.CommandsWithoutOutputKeepHostMemory := by
  refine fun i s hi => exec_answers (fun _ _ _ => rfl) fun _ x => ?_
  have hkept : (effectOf i s).hmem = s.hmem := by
    refine effectOf_keepsHmem ?_ ?_ ?_ s <;> rintro rfl <;> simp at hi
  rw [State.setLastErr_hmem, hkept]

end Sys2Proof.Machine
end

section
/-! PROOFS. The command words, the decoder and the assembler (spec/30_encoding.md R102 to R109): O1, O2, O4, O5, O6. -/

namespace Sys2Proof

/-- Settles O1: the eight words of the opcode map, one law of the decoder each (R102). -/
theorem commandWordsDecode : Obligations.CommandWordsDecode :=
  ⟨decode_word_init, decode_word_updateByte, decode_word_updateBlock, decode_word_setTag, decode_word_finalize,
    decode_word_getTag, decode_word_reset, decode_word_dispose⟩

/-! ## The words that are commands -/

section Words
variable {w : Word}

/-- With RSVD clear, OPC is the whole number of the word (R101). -/
theorem toNat_eq_opcField (h : rsvdField w = 0) : w.toNat = (opcField w).toNat := by
  have hrsvd : w.toNat / 256 = 0 := by rw [← rsvdField_toNat, h]; rfl
  rw [opcField_toNat]
  omega

/-- The decoder gives a command for its own word only: RSVD is clear and OPC is the number its branch tests (R104). -/
theorem eq_encode_of_decode {i : Instr} (h : decode w = .ok i) : w = encode i := by
  by_cases hrsvd : rsvdField w = 0
  · have hw := toNat_eq_opcField hrsvd
    rw [decode, if_neg (not_not.2 hrsvd)] at h
    apply BitVec.eq_of_toNat_eq
    split at h <;> cases h <;> exact hw.trans ‹(opcField w).toNat = _›
  · rw [decode_of_rsvd hrsvd] at h
    cases h

theorem decode_eq_ok_iff {i : Instr} : decode w = .ok i ↔ w = encode i :=
  ⟨eq_encode_of_decode, fun h => h ▸ decode_encode i⟩

/-- The command words are the numbers 1 to 8 (R102). -/
theorem exists_eq_encode_iff : (∃ i, w = encode i) ↔ 1 ≤ w.toNat ∧ w.toNat ≤ 8 := by
  constructor
  · rintro ⟨i, rfl⟩
    cases i <;> decide
  · rintro ⟨hlo, hhi⟩
    have hw : w = BitVec.ofNat 32 w.toNat := by simp
    generalize w.toNat = n at *
    interval_cases n
    exacts [⟨.init, hw⟩, ⟨.updateByte, hw⟩, ⟨.updateBlock, hw⟩, ⟨.setTag, hw⟩, ⟨.finalize, hw⟩, ⟨.getTag, hw⟩,
      ⟨.reset, hw⟩, ⟨.dispose, hw⟩]

/-- The decoder is total: a word that is no command word decodes to an error (R105). -/
theorem decode_error_of_ne_encode (h : ¬∃ i, w = encode i) : ∃ e, decode w = .error e := by
  cases hd : decode w with
  | error e => exact ⟨e, rfl⟩
  | ok i => exact absurd ⟨i, eq_encode_of_decode hd⟩ h

end Words

/-- Settles O2: the all-ones mask leaves the word as it is (R103). -/
theorem decodeSelectsExactlyItsWord : Obligations.DecodeSelectsExactlyItsWord := by
  intro w i
  have hmask : w &&& 0xFFFFFFFF = w := BitVec.and_allOnes
  rw [hmask, decode_eq_ok_iff]

namespace Machine

/-! ## A CMD write by its word -/

section CmdWrite
variable {s : State} {w : Word} {rest : List HostAction}

theorem step_command_of_ne_encode (h : s.pending = .csr (.command w) :: rest) (hw : ¬∃ i, w = encode i) :
    step s = .next (({ s with pending := rest } : State).setLastErr .invalidCommand) := by
  obtain ⟨e, he⟩ := decode_error_of_ne_encode hw
  rw [step_command h, runCommandWord_of_error he]

theorem step_command_encode {i : Instr} (h : s.pending = .csr (.command (encode i)) :: rest) :
    step s = exec i { s with pending := rest } := by
  rw [step_command h, runCommandWord_of_decode (decode_encode i)]

end CmdWrite

/-- Settles O4: the three ranges of the fields say whether the word's number is one of 1 to 8. -/
theorem everyOtherWordRaisesInvalidCommand : Obligations.EveryOtherWordRaisesInvalidCommand := by
  refine fun s w rest h => ⟨fun hrsvd => ?_, fun hrsvd hopc => ?_, fun hrsvd hlo hhi => ?_⟩
  · exact step_command_of_ne_encode h (by rw [exists_eq_encode_iff]; omega)
  · exact step_command_of_ne_encode h (by rw [exists_eq_encode_iff]; omega)
  · obtain ⟨i, rfl⟩ := exists_eq_encode_iff.2 (show 1 ≤ w.toNat ∧ w.toNat ≤ 8 by omega)
    exact ⟨i, rfl, step_command_encode h⟩

/-! ## Operands and their words -/

theorem uval32_operandWord {x : Int} (hlo : 0 ≤ x) (hhi : x < 2 ^ 32) : (uval32 (operandWord x) : Int) = x := by
  rw [uval32, operandWord, BitVec.toNat_ofInt]
  omega

theorem sval32_operandWord {x : Int} (hlo : -(2 ^ 31) ≤ x) (hhi : x < 2 ^ 31) : sval32 (operandWord x) = x := by
  rw [sval32, operandWord, BitVec.toInt_ofInt]
  exact Int.bmod_eq_of_le (by omega) (by omega)

/-- Settles O5: log 19's range is the union of the ranges of the two readings. -/
theorem operandWordReadsBack : Obligations.OperandWordReadsBack := by
  intro x hx
  obtain ⟨hlo, hhi⟩ := (operandFits_iff x).1 hx
  exact ⟨fun h0 => uval32_operandWord h0 hhi, sval32_operandWord hlo⟩

/-! ## A command statement runs its accesses -/

/-- The operand registers after the operands `xs` were written to them from register `k` on. -/
def loadArgs (k : Nat) (xs : List Int) (v : Vector Word 8) : Vector Word 8 :=
  Vector.ofFn fun j => if h : k ≤ j.val ∧ j.val - k < xs.length then operandWord xs[j.val - k] else v[j]

/-- The operand registers are written from ARG0 on. -/
theorem loadArgs_zero_getElem (xs : List Int) (v : Vector Word 8) (j : Fin 8) :
    (loadArgs 0 xs v)[j] = if h : j.val < xs.length then operandWord xs[j.val] else v[j] := by
  simp [loadArgs]

theorem loadArgs_nil (k : Nat) (v : Vector Word 8) : loadArgs k [] v = v := by
  refine Vector.ext fun j hj => ?_
  simp [loadArgs]

/-- The first operand goes to register `k`, the others to the registers after it. -/
theorem loadArgs_cons (k : Fin 8) (x : Int) (xs : List Int) (v : Vector Word 8) :
    loadArgs k (x :: xs) v = loadArgs (k + 1) xs (v.set k (operandWord x)) := by
  refine Vector.ext fun j hj => ?_
  simp only [loadArgs, Vector.getElem_ofFn, Fin.getElem_fin, List.length_cons]
  obtain hlt | rfl | hgt := lt_trichotomy j k.val
  · simp [hlt.ne', hlt.not_ge, (Nat.lt_succ_of_lt hlt).not_ge]
  · simp
  · obtain ⟨d, rfl⟩ := Nat.exists_eq_add_of_lt hgt
    have hd : k.val + (d + 1) - (k.val + 1) = d := by omega
    simp [Nat.add_assoc, hd]

/-- A well-formed statement's operands have words. -/
theorem Statement.operands_fit {st : Statement} {i : Instr} (hwf : st.wf = true) (hi : st.instr? = some i) :
    ∀ x ∈ st.operands, operandFits x = true := by
  cases st with
  | write | read | expect => cases hi
  | _ => exact List.all_eq_true.1 hwf

/-- No command has more operands than there are operand registers (R106). -/
theorem Statement.operands_length_le (st : Statement) : st.operands.length ≤ 8 := by
  cases st <;> simp [operands]

theorem runAccesses_cons_of_next {a : CsrAccess} {s t : State} (h : runAccess a s = .next t) (as : List CsrAccess) :
    runAccesses (a :: as) s = runAccesses as t := by
  rw [runAccesses, h]

/-- One access alone is its step. -/
theorem runAccesses_singleton (a : CsrAccess) (s : State) : runAccesses [a] s = runAccess a s := by
  rw [runAccesses]
  cases runAccess a s <;> rfl

theorem runAccess_argWrite (k : Fin 8) (w : Word) (s : State) :
    runAccess (.writeAt (argOffset k) w) s = .next (s.writeArg k w) :=
  step_writeArg rfl

/-- The CSR writes of a list of operands load the operand registers and change nothing else (R109). -/
theorem runAccesses_argWrites (xs : List Int) (as : List CsrAccess) (k : Nat) (s : State) (hk : k + xs.length ≤ 8) :
    runAccesses (argWrites k xs ++ as) s =
      runAccesses as { s with block := { s.block with arg := loadArgs k xs s.block.arg } } := by
  induction xs generalizing k s with
  | nil => rw [loadArgs_nil]; rfl
  | cons x xs ih =>
    rw [List.length_cons] at hk
    have hlt : k < 8 := by omega
    rw [argWrites, List.cons_append, runAccesses_cons_of_next (runAccess_argWrite ⟨k, hlt⟩ _ s), ih _ _ (by omega),
      loadArgs_cons ⟨k, hlt⟩]
    rfl

/-- A command statement loads its operands and runs its command (R109). -/
theorem runStatement_of_instr {st : Statement} {i : Instr} (hi : st.instr? = some i) (s : State) :
    runStatement st s = exec i { s with block := { s.block with arg := loadArgs 0 st.operands s.block.arg } } := by
  have hassemble : assemble st = argWrites 0 st.operands ++ [.command (encode i)] := by simp only [assemble, hi]
  rw [runStatement, hassemble, runAccesses_argWrites _ _ _ _ (by simpa using st.operands_length_le),
    runAccesses_singleton]
  exact step_command_encode rfl

/-- Settles O6: the operand registers are those the statement's accesses load, and each operand's word reads back (O5). -/
theorem assembledStatementRunsItsCommand : Obligations.AssembledStatementRunsItsCommand := by
  refine fun st i s hwf hi => ⟨loadArgs 0 st.operands s.block.arg, loadArgs_zero_getElem _ _, fun k hk => ?_,
    runStatement_of_instr hi s⟩
  rw [loadArgs_zero_getElem, dif_pos hk]
  exact operandWordReadsBack _ (Statement.operands_fit hwf hi _ (List.getElem_mem hk))

end Machine
end Sys2Proof
end

section
/-! PROOFS. INIT and the MAC-key derivation (spec/40_construction.md R130 to R137): O17, O51, O56. -/

namespace Sys2Proof.Machine

/-! ## INIT's checks and effect -/

/-- INIT's first failing check in the order of R132; the three host ranges share one code. -/
theorem firstFailed_initChecks (s : State) : firstFailed (initChecks s) =
    if (s.block.arg[1]).toNat ≠ 32 then some .invalidKeySize
    else if (s.block.arg[3]).toNat ≠ s.params.nonceLen then some .invalidNonceSize
    else if (s.block.arg[6]).toNat ≠ 20 then some .unsupportedParameter
    else if (s.block.arg[0]).toNat + (s.block.arg[1]).toNat > s.params.hmemSize ∨
        (s.block.arg[2]).toNat + (s.block.arg[3]).toNat > s.params.hmemSize ∨
        (s.block.arg[4]).toNat + (s.block.arg[5]).toNat > s.params.hmemSize then some .invalidRange
    else if (s.block.arg[5]).toNat > s.params.adCap then some .capacityExceeded
    else none := by
  simp only [initChecks, firstFailed_cons, firstFailed_nil, decide_eq_true_eq, Descriptor.hCheck, Descriptor.hFails,
    ite_or]
  rfl

section OtherBlock
variable {s : State} {b : Block} (h : b.arg = s.block.arg)
include h

/-- INIT's checks see the ARG registers and the parameters, in every phase (R130). -/
theorem initChecks_withBlock : initChecks { s with block := b } = initChecks s := by
  cases b
  cases h
  rfl

/-- INIT writes every element of the block but LAST_ERR and the ARG registers; at its end LAST_ERR takes OK (R137). -/
theorem initEffect_withBlock :
    (initEffect { s with block := b }).setLastErr .ok = (initEffect s).setLastErr .ok := by
  cases b
  cases h
  rfl

end OtherBlock

/-- A command that ends with LAST_ERR = OK has passed its checks and had its effect (R14, R254). -/
theorem exec_ok {i : Instr} {s t : State} (h : exec i s = .next t) (hok : t.block.lastErr = .ok) :
    firstFailed (checksOf i s) = none ∧ t = (effectOf i s).setLastErr .ok := by
  obtain ⟨e, hf, ho⟩ | ⟨hp, ho⟩ := exec_cases h
  · cases ho
    exact absurd hok (ne_ok_of_firstFailed hf)
  · cases ho
    exact ⟨hp, rfl⟩

/-- Settles O56: neither INIT's checks nor the state it completes in see the previous block beyond its ARG registers. -/
theorem initLeavesNoTrace : Obligations.InitLeavesNoTrace := by
  intro s t b harg hexec hok
  obtain ⟨hpass, rfl⟩ := exec_ok hexec hok
  have hchecks : checksOf .init { s with block := b } = checksOf .init s := initChecks_withBlock harg
  rw [exec_of_pass (hchecks ▸ hpass)]
  exact congrArg _ (initEffect_withBlock harg)

/-- Settles O17: the premises of each clause select one branch of the checks in the order of R132. -/
theorem initRule : Obligations.InitRule := by
  refine ⟨decode_word_init, fun s => ?_⟩
  have hchecks : firstFailed (checksOf .init s) = _ := firstFailed_initChecks s
  refine ⟨fun hkey => ?_, fun hkey hnonce => ?_, fun hkey hnonce hrounds => ?_, fun hkey hnonce hrounds hrange => ?_,
    fun hkey hnonce hrounds hkeyIn hnonceIn hadIn hcap => ?_,
    fun hkey hnonce hrounds hkeyIn hnonceIn hadIn hcap => ?_⟩
  · exact exec_of_fail (by simp [hchecks, hkey])
  · exact exec_of_fail (by simp [hchecks, hkey, hnonce])
  · exact exec_of_fail (by simp [hchecks, hkey, hnonce, hrounds])
  · exact exec_of_fail (by simp [hchecks, hkey, hnonce, hrounds, hrange])
  · exact exec_of_fail (by simp [hchecks, hkey, hnonce, hrounds, hkeyIn.not_gt, hnonceIn.not_gt, hadIn.not_gt, hcap])
  · exact exec_of_pass (by
      simp [hchecks, hkey, hnonce, hrounds, hkeyIn.not_gt, hnonceIn.not_gt, hadIn.not_gt, hcap.not_gt])

/-! ## The MAC key -/

/-- XOR with zero bytes leaves a string as it is. -/
theorem zipWith_xor_zeros {n : Nat} (v : Vector Byte n) : Vector.zipWith (· ^^^ ·) (zeros n) v = v := by
  refine Vector.ext fun i hi => ?_
  rw [Vector.getElem_zipWith, Vector.getElem_replicate]
  exact BitVec.zero_xor

/-- Settles O51: the derivation latches what KD0 requested, and encrypting zeros shows the keystream itself. -/
theorem macKeyIsTheFirstKeystreamBytes : Obligations.MacKeyIsTheFirstKeystreamBytes := fun key nonce =>
  ⟨deriveMacKey_eq key nonce, (zipWith_xor_zeros _).trans (deriveMacKey_eq key nonce).symm⟩

end Sys2Proof.Machine
end

section
/-! PROOFS. The update family (spec/41_streaming_update.md R150 to R159): O18, O19, O20, O21, O54, O55. -/

namespace Sys2Proof.Machine

/-! ## The checks of the two commands -/

theorem isUpdate_iff {i : Instr} : isUpdate i = true ↔ i = .updateByte ∨ i = .updateBlock := by
  simp [isUpdate]

/-- The two phase checks head the list of an update command (R152). -/
theorem checksOf_update {i : Instr} (hi : isUpdate i = true) (s : State) :
    ∃ cs, checksOf i s = deadCheck s.block :: finalCheck s.block :: cs := by
  obtain rfl | rfl := isUpdate_iff.1 hi <;> exact ⟨_, rfl⟩

/-- Settles O19: whatever checks follow, the first that fails is a phase check. -/
theorem updateFamilyPhaseChecks : Obligations.UpdateFamilyPhaseChecks := by
  intro i s hi
  obtain ⟨cs, hcs⟩ := checksOf_update hi s
  refine ⟨fun hdead => exec_of_fail ?_, fun hfinal => exec_of_fail ?_⟩
  · simp [hcs, firstFailed_cons, deadCheck, hdead]
  · simp [hcs, firstFailed_cons, deadCheck, finalCheck, hfinal]

/-- In OPEN the capacity is UPDATE_BYTE's only check (R151, R153). -/
theorem firstFailed_updateByteChecks {s : State} (ho : s.block.phase = .opened) : firstFailed (updateByteChecks s) =
    if s.block.msg.length + 1 > s.params.msgCap then some .capacityExceeded else none := by
  simp [updateByteChecks, firstFailed_cons, deadCheck, finalCheck, capacityCheck, ho]

/-- The W-check as a proposition (R73). -/
theorem Descriptor.wFails_iff (d : Descriptor) :
    d.wFails = true ↔ d.offset < 0 ∨ d.length < 0 ∨ d.offset + d.length > d.bufLen := by
  simp only [Descriptor.wFails, Bool.or_eq_true, decide_eq_true_eq, or_assoc]

/-- The H-check as a proposition (R74). -/
theorem Descriptor.hFails_iff (d : Descriptor) (size : Nat) : d.hFails size = true ↔ d.addr + d.bufLen > size :=
  decide_eq_true_iff

section BlockOperand
variable (b : Block)

/-- The W-check of UPDATE_BLOCK on its ARG registers (R106). -/
theorem updateBlockOperand_wFails : (updateBlockOperand b).wFails = true ↔
    (b.arg[2]).toInt < 0 ∨ (b.arg[3]).toInt < 0 ∨ (b.arg[2]).toInt + (b.arg[3]).toInt > (b.arg[1]).toNat :=
  Descriptor.wFails_iff _

/-- The H-check of UPDATE_BLOCK on its ARG registers (R106). -/
theorem updateBlockOperand_hFails (size : Nat) : (updateBlockOperand b).hFails size = true ↔
    (b.arg[0]).toNat + (b.arg[1]).toNat > size :=
  Descriptor.hFails_iff _ _

/-- The number of bytes of UPDATE_BLOCK's window (R106). -/
theorem updateBlockOperand_count : (updateBlockOperand b).count = (b.arg[3]).toInt.toNat := rfl

end BlockOperand

/-- In OPEN the range is checked before the capacity; the W-check and the H-check share one code (R155). -/
theorem firstFailed_updateBlockChecks {s : State} (ho : s.block.phase = .opened) : firstFailed (updateBlockChecks s) =
    if ((s.block.arg[2]).toInt < 0 ∨ (s.block.arg[3]).toInt < 0 ∨
          (s.block.arg[2]).toInt + (s.block.arg[3]).toInt > (s.block.arg[1]).toNat) ∨
        (s.block.arg[0]).toNat + (s.block.arg[1]).toNat > s.params.hmemSize then some .invalidRange
    else if s.block.msg.length + (s.block.arg[3]).toInt.toNat > s.params.msgCap then some .capacityExceeded
    else none := by
  simp [updateBlockChecks, firstFailed_cons, deadCheck, finalCheck, capacityCheck, Descriptor.wCheck, Descriptor.hCheck,
    ho, updateBlockOperand_wFails, updateBlockOperand_hFails, updateBlockOperand_count, ite_or]

/-- ARG0[7:0] is ARG0 mod 256 (R107). -/
theorem updateByteOperand_eq (b : Block) : updateByteOperand b = BitVec.ofNat 8 ((b.arg[0]).toNat % 256) := by
  apply BitVec.eq_of_toNat_eq
  simp [updateByteOperand]

/-- Settles O18: the phase checks are those of the family, and in OPEN the capacity decides. -/
theorem updateByteRule : Obligations.UpdateByteRule := by
  refine ⟨decode_word_updateByte, fun s => ?_⟩
  obtain ⟨hdead, hfinal⟩ := updateFamilyPhaseChecks .updateByte s rfl
  refine ⟨hdead, hfinal, fun ho hcap => ?_, fun ho hcap => ?_⟩
  · exact exec_of_fail ((firstFailed_updateByteChecks ho).trans (if_pos hcap))
  · rw [← updateByteOperand_eq]
    exact exec_of_pass ((firstFailed_updateByteChecks ho).trans (if_neg hcap.not_gt))

/-- Settles O20: the phase checks are those of the family, and in OPEN the range and then the capacity decide; a length that
passes the W-check is not negative, so its capacity sum is that of the naturals. -/
theorem updateBlockRule : Obligations.UpdateBlockRule := by
  refine ⟨decode_word_updateBlock, fun s => ?_⟩
  obtain ⟨hdead, hfinal⟩ := updateFamilyPhaseChecks .updateBlock s rfl
  refine ⟨hdead, hfinal, fun ho hrange => ?_, fun ho hw hh hfull => ?_, fun ho hw hh hroom => ?_⟩
  · exact exec_of_fail ((firstFailed_updateBlockChecks ho).trans (if_pos hrange))
  · have hcapacity := (firstFailed_updateBlockChecks ho).trans (if_neg (not_or.2 ⟨hw, hh⟩))
    exact exec_of_fail (hcapacity.trans (if_pos (by omega)))
  · have hcapacity := (firstFailed_updateBlockChecks ho).trans (if_neg (not_or.2 ⟨hw, hh⟩))
    exact exec_of_pass (hcapacity.trans (if_neg (by omega)))

/-! ## The scrub -/

/-- Zeros written over a range are read back in it, and every other byte stays (R157). -/
theorem read_memWrite_zeros {m : Memory} (hm : Memory.wf m = true) (addr n x : Nat) :
    Memory.read (memWrite m addr (List.replicate n 0)) x = if addr ≤ x ∧ x < addr + n then 0 else Memory.read m x := by
  split
  · next hin =>
    obtain ⟨i, rfl⟩ := Nat.exists_eq_add_of_le hin.1
    rw [memWrite_read_inside hm (by simp; omega), List.getElem_replicate]
  · next hout =>
    exact memWrite_read_outside hm (by simp; omega)

/-- Settles O21: a raise writes LAST_ERR alone, and the effect on host memory is zeros over the window. -/
theorem updateBlockScrubsExactlyItsWindow : Obligations.UpdateBlockScrubsExactlyItsWindow := fun _ hm =>
  exec_answers (fun _ hf => ⟨fun hok => absurd hok (ne_ok_of_firstFailed hf), fun _ => rfl⟩) fun _ =>
    ⟨fun _ => read_memWrite_zeros hm _ _, fun hne => absurd rfl hne⟩

/-! ## Runs of updates -/

/-- `b'` is `b` with `P` appended to MSG, but for LAST_ERR and the ARG registers. -/
def Block.GrownBy (b : Block) (P : List Byte) (b' : Block) : Prop :=
  b' = { b with msg := b.msg ++ P, lastErr := b'.lastErr, arg := b'.arg }

section Grown
variable {b c d : Block} {P Q : List Byte}

theorem Block.grownBy_nil (b : Block) (e : ResultCode) (a : Vector Word 8) :
    b.GrownBy [] { b with lastErr := e, arg := a } := by
  simp [Block.GrownBy]

theorem Block.GrownBy.trans (hbc : b.GrownBy P c) (hcd : c.GrownBy Q d) : b.GrownBy (P ++ Q) d := by
  unfold Block.GrownBy at *
  rw [hcd, hbc]
  simp

end Grown

/-- The effect of an update command on the block is its piece, appended to MSG (R150). -/
theorem effectOf_update_block {i : Instr} (hi : isUpdate i = true) (s : State) :
    (effectOf i s).block = { s.block with msg := s.block.msg ++ updatePiece i s } := by
  obtain rfl | rfl := isUpdate_iff.1 hi <;> rfl

/-- The queue is no part of what an update appends. -/
theorem updatePiece_withPending {i : Instr} (hi : isUpdate i = true) (s : State) (q : List HostAction) :
    updatePiece i { s with pending := q } = updatePiece i s := by
  obtain rfl | rfl := isUpdate_iff.1 hi <;> rfl

/-- A command that ends with another LAST_ERR than OK wrote LAST_ERR alone (R13, R159). -/
theorem exec_not_ok {i : Instr} {s t : State} (h : exec i s = .next t) (hne : t.block.lastErr ≠ .ok) :
    ∃ e, t = s.setLastErr e := by
  obtain ⟨e, -, ho⟩ | ⟨-, ho⟩ := exec_cases h
  · cases ho
    exact ⟨e, rfl⟩
  · cases ho
    exact absurd rfl hne

/-- A write that is not to CMD leaves the block but for an ARG register. -/
theorem csrWrite_grownBy_nil {r : CsrReg} {w : Word} {s t : State} (hr : r ≠ .cmd) (h : csrWrite r w s = .next t) :
    s.block.GrownBy [] t.block := by
  cases r with
  | cmd => exact absurd rfl hr
  | status | arg | reserved => cases h; exact Block.grownBy_nil ..

/-- A quiet action leaves the block but for an ARG register. -/
theorem hostAction_quiet_grownBy_nil {a : HostAction} {s t : State} (ha : a.quiet = true)
    (h : hostAction a s = .next t) : s.block.GrownBy [] t.block := by
  cases a with
  | assertReset => cases ha
  | hmemStore addr bytes =>
    by_cases hin : addr + bytes.length ≤ s.params.hmemSize
    · rw [hostAction, hostStore_inside hin] at h
      cases h
      exact Block.grownBy_nil ..
    · rw [hostAction, hostStore_outside hin] at h
      cases h
  | csr a =>
    obtain ⟨dir, off, size⟩ := a
    cases hw : (CsrAccess.mk dir off size).wf with
    | false => rw [hostAction, csrAccess_of_not_wf hw] at h; cases h
    | true =>
      obtain ⟨rfl, -, -⟩ := (CsrAccess.wf_iff _).1 hw
      cases dir with
      | read =>
        rw [hostAction, csrAccess_read hw] at h
        cases h
        exact Block.grownBy_nil ..
      | write w =>
        rw [hostAction, csrAccess_write hw] at h
        exact csrWrite_grownBy_nil (by simpa [HostAction.quiet] using ha) h

/-- A successful update command appends its piece. -/
theorem exec_update_grownBy {i : Instr} {s t : State} (hi : isUpdate i = true) (h : exec i s = .next t)
    (hok : t.block.lastErr = .ok) : s.block.GrownBy (updatePiece i s) t.block := by
  obtain ⟨-, rfl⟩ := exec_ok h hok
  simp [Block.GrownBy, State.setLastErr, effectOf_update_block hi]

/-- No host action changes the implementation parameters (log 1). -/
theorem HostMove.params_eq {s t : State} (h : HostMove s t) : t.params = s.params := by
  cases h with
  | ran i _ => simp
  | returned | ignored | argWritten | raised | stored | wasReset => rfl

theorem step_keepsParams {s t : State} (h : step s = .next t) : t.params = s.params := by
  cases hq : s.pending with
  | nil =>
    rw [step_nil hq] at h
    cases h
    rfl
  | cons a rest =>
    rw [step_cons hq] at h
    exact (hostAction_move h).params_eq

theorem Feeds.grownBy {s t : State} {P : List Byte} (h : Feeds s P t) : s.block.GrownBy P t.block := by
  induction h with
  | done s => exact s.block.grownBy_nil _ _
  | quiet hq ha hstep _ ih =>
    rw [step_cons hq] at hstep
    exact (hostAction_quiet_grownBy_nil ha hstep).trans ih
  | raised hq _ hstep hne _ ih =>
    rw [step_command_encode hq] at hstep
    obtain ⟨e, rfl⟩ := exec_not_ok hstep hne
    exact (Block.grownBy_nil ..).trans ih
  | @update s _ _ _ i rest hq hi hstep hok _ ih =>
    rw [step_command_encode hq] at hstep
    rw [← updatePiece_withPending hi s rest]
    exact (exec_update_grownBy hi hstep hok).trans ih

theorem Feeds.params_eq {s t : State} {P : List Byte} (h : Feeds s P t) : t.params = s.params := by
  induction h with
  | done => rfl
  | quiet _ _ hstep _ ih | raised _ _ hstep _ _ ih | update _ _ hstep _ _ ih => exact ih.trans (step_keepsParams hstep)

/-- Settles O54: along the run each step appends its piece to MSG, and a raise or a quiet action the empty one. -/
theorem messageIsTheConcatenationOfUpdates : Obligations.MessageIsTheConcatenationOfUpdates :=
  fun _ _ _ h => ⟨h.grownBy, h.params_eq⟩

/-! ## FINALIZE after a run -/

section SameEngine
variable {s : State} (q : List HostAction) (r : Option Word) (e : ResultCode)

/-- What FINALIZE sees: neither the previous LAST_ERR nor the host's side of the machine. -/
theorem finalizeChecks_withLastErr :
    finalizeChecks { s.setLastErr e with pending := q, readData := r } = finalizeChecks s := rfl

/-- What FINALIZE writes: LAST_ERR takes OK, whatever it held before. -/
theorem finalizeEffect_withLastErr :
    (finalizeEffect { s.setLastErr e with pending := q, readData := r }).setLastErr .ok =
      { (finalizeEffect s).setLastErr .ok with pending := q, readData := r } := by
  cases h : s.block.tagInSet with
  | true => rw [finalizeEffect_of_decrypt h, finalizeEffect_of_decrypt (by exact h)]; rfl
  | false => rw [finalizeEffect_of_encrypt h, finalizeEffect_of_encrypt (by exact h)]; rfl

/-- From two states that differ at most in LAST_ERR and the host's side, FINALIZE comes to two that differ at most in the
host's side (R193). -/
theorem exec_finalize_withLastErr : ∃ u, exec .finalize s = .next u ∧
    exec .finalize { s.setLastErr e with pending := q, readData := r } = .next { u with pending := q, readData := r } := by
  have hchecks : checksOf .finalize { s.setLastErr e with pending := q, readData := r } = checksOf .finalize s :=
    finalizeChecks_withLastErr q r e
  refine exec_answers (fun c hf => ?_) fun hpass => ?_
  · exact exec_of_fail (hchecks ▸ hf)
  · rw [exec_of_pass (hchecks ▸ hpass)]
    exact congrArg _ (finalizeEffect_withLastErr q r e)

end SameEngine

/-- One engine grown by the same bytes on two ways is the same engine, but for LAST_ERR and the ARG registers. -/
theorem Block.GrownBy.sameEngine {b b' c c' : Block} {P : List Byte}
    (hb : b' = { b with lastErr := b'.lastErr, arg := b'.arg }) (h : b.GrownBy P c) (h' : b'.GrownBy P c') :
    c' = { c with lastErr := c'.lastErr, arg := c'.arg } := by
  unfold Block.GrownBy at *
  rw [h', hb, h]

/-- Settles O55: both runs grow the engine by P, so two states are left that differ in what FINALIZE does not see. -/
theorem streamingEquivalence : Obligations.StreamingEquivalence := by
  intro s₁ s₂ t₁ t₂ P hparams hblock h₁ h₂
  have hp : t₂.params = t₁.params := by rw [h₁.params_eq, h₂.params_eq, hparams]
  have hb := h₁.grownBy.sameEngine hblock h₂.grownBy
  refine ⟨by rw [hb], fun args m => ?_⟩
  obtain ⟨u, hu₁, hu₂⟩ := exec_finalize_withLastErr (s := { t₁ with hmem := m, block := { t₁.block with arg := args } })
    t₂.pending t₂.readData t₂.block.lastErr
  refine ⟨u, { u with pending := t₂.pending, readData := t₂.readData }, hu₁, ?_, rfl, rfl⟩
  rw [← hu₂, hp, hb]
  rfl

end Sys2Proof.Machine
end

section
/-! PROOFS. The MAC input and the keystream (spec/42_mac_input.md R171 to R180): O45, O46, O47, O48, O50. -/

namespace Sys2Proof.Machine

/-! ## The zero padder -/

theorem pad16_le (n : Nat) : pad16 n ≤ 15 := by
  unfold pad16
  omega

theorem add_pad16_mod (n : Nat) : (n + pad16 n) % 16 = 0 := by
  unfold pad16
  omega

/-- Settles O45: n + pad16(n) is a multiple of 16 less than 16 above n, so no smaller multiple reaches n. -/
theorem padderReachesTheNextMultiple : Obligations.PadderReachesTheNextMultiple := by
  intro n
  have hle := pad16_le n
  have hmod := add_pad16_mod n
  exact ⟨hle, hmod, fun m hm hm16 => by omega, rfl⟩

/-! ## The length encoder -/

/-- The k low base-256 digits of n, least significant first. -/
def leBytes (k n : Nat) : List Byte := (List.range k).map fun i => BitVec.ofNat 8 (n >>> (8 * i))

/-- The number that bytes make, byte 0 least significant. -/
def leValue (bytes : List Byte) : Nat := bytes.foldr (fun b high => b.toNat + 256 * high) 0

theorem le64_eq_leBytes (n : Nat) : le64 n = leBytes 8 n := rfl

theorem leBytes_succ (k n : Nat) : leBytes (k + 1) n = BitVec.ofNat 8 n :: leBytes k (n / 256) := by
  have hshift (i : Nat) : n >>> (8 * (i + 1)) = (n / 256) >>> (8 * i) := by
    rw [Nat.mul_succ, Nat.add_comm, Nat.shiftRight_add, Nat.shiftRight_eq_div_pow n 8]
  simp [leBytes, List.range_succ_eq_map, hshift]

/-- k bytes keep n modulo 256^k. -/
theorem leValue_leBytes (k n : Nat) : leValue (leBytes k n) = n % 256 ^ k := by
  induction k generalizing n with
  | zero => simp [leBytes, leValue, Nat.mod_one]
  | succ k ih =>
    calc leValue (leBytes (k + 1) n)
        = n % 256 + 256 * leValue (leBytes k (n / 256)) := by rw [leBytes_succ]; rfl
      _ = n % 256 ^ (k + 1) := by rw [ih, Nat.pow_succ', Nat.mod_mul]

theorem leValue_le64 {n : Nat} (h : n < 2 ^ 64) : leValue (le64 n) = n := by
  rw [le64_eq_leBytes, leValue_leBytes]
  exact Nat.mod_eq_of_lt h

theorem le64_inj {n m : Nat} (hn : n < 2 ^ 64) (hm : m < 2 ^ 64) (h : le64 n = le64 m) : n = m := by
  rw [← leValue_le64 hn, h, leValue_le64 hm]

theorem le64_getElem_toNat (n i : Nat) (h : i < (le64 n).length) : (le64 n)[i].toNat = n / 2 ^ (8 * i) % 256 := by
  simp [le64, Nat.shiftRight_eq_div_pow]

/-- Settles O46: the bytes are the base-256 digits, and eight of them hold every number below 2^64. -/
theorem lengthEncoderIsLittleEndian : Obligations.LengthEncoderIsLittleEndian := fun n =>
  ⟨le64_length n, le64_getElem_toNat n, leValue_le64⟩

/-! ## The MAC-input assembler -/

/-- A part that stands in a string behind `front` is the byte range of its length from there. -/
theorem take_drop_of_prefix {M front part : List Byte} {i n : Nat} (h : front ++ part <+: M) (hi : front.length = i)
    (hn : part.length = n) : (M.drop i).take n = part := by
  obtain ⟨back, rfl⟩ := h
  subst hi hn
  simp

/-- Settles O47: each part of the concatenation stands behind the parts before it, whose lengths sum to its offset. -/
theorem macInputLayout : Obligations.MacInputLayout := by
  intro A C a c L M
  have hlen : M.length = L := macInput_length A C
  have hmodA := add_pad16_mod a
  have hmodC := add_pad16_mod c
  have hLA : A ++ padding a ++ C ++ padding c ++ le64 a <+: M := List.prefix_append _ _
  have hpadC : A ++ padding a ++ C ++ padding c <+: M := (List.prefix_append _ _).trans hLA
  have hC : A ++ padding a ++ C <+: M := (List.prefix_append _ _).trans hpadC
  have hpadA : A ++ padding a <+: M := (List.prefix_append _ _).trans hC
  have hA : A <+: M := (List.prefix_append _ _).trans hpadA
  refine ⟨hlen, by omega, by omega, (List.prefix_iff_eq_take.1 hA).symm, ?_, ?_, ?_, ?_, ?_, rfl⟩
  · exact take_drop_of_prefix hpadA rfl (padding_length a)
  · exact take_drop_of_prefix hC (by simp [a]) rfl
  · exact take_drop_of_prefix hpadC (by simp [a, c, Nat.add_assoc]) (padding_length c)
  · exact take_drop_of_prefix hLA (by simp [a, c, L]; omega) (le64_length a)
  · exact List.drop_left' (by simp [a, c, L]; omega)

/-- Settles O48: the two LE64 fields at the end fix the lengths, and the lengths fix where A and C stand. -/
theorem macInputIsInjective : Obligations.MacInputIsInjective := by
  intro A C A' C' hA hC hA' hC' h
  obtain ⟨h, hc⟩ := List.append_inj' h (by simp)
  obtain ⟨h, ha⟩ := List.append_inj' h (by simp)
  have hlenC : C.length = C'.length := le64_inj hC hC' hc
  have hlenA : A.length = A'.length := le64_inj hA hA' ha
  obtain ⟨h, -⟩ := List.append_inj' h (by simp [hlenC])
  obtain ⟨h, hCC⟩ := List.append_inj' h hlenC
  exact ⟨List.append_inj_left h hlenA, hCC⟩

/-! ## Applying the keystream -/

/-- Apply reads KEY and NONCE alone (R176). -/
theorem applyKeystream_congr {b b' : Block} (hkey : b.key = b'.key) (hnonce : b.nonce = b'.nonce) (m : List Byte) :
    applyKeystream b m = applyKeystream b' m := by
  simp only [applyKeystream, hkey, hnonce]

/-- Settles O50: both passes XOR a byte with the same keystream byte. -/
theorem applyIsAnInvolution : Obligations.ApplyIsAnInvolution := by
  intro b m
  refine List.ext_getElem (by simp) fun i _ hi => ?_
  rw [applyKeystream_getElem b _ i (by simpa using hi), applyKeystream_getElem b m i hi, BitVec.xor_assoc,
    BitVec.xor_self, BitVec.xor_zero]

end Sys2Proof.Machine
end

section
/-! PROOFS. The construction as a whole (spec/42_mac_input.md R180, spec/43_finalize.md R195, R200): O53. -/

namespace Sys2Proof.Machine

/-- The comparator gives 0 for a tag against itself (R201). -/
theorem comparator_self (t : Vector Byte 16) : comparator t t = 0 := by
  have hxor : List.zipWith (· ^^^ ·) t.toList t.toList = List.replicate 16 0 := by
    refine List.ext_getElem (by simp) fun i _ _ => ?_
    rw [List.getElem_zipWith, BitVec.xor_self, List.getElem_replicate]
    rfl
  rw [comparator, hxor]
  rfl

/-- The tag of a ciphertext depends on MK and AD alone (R179). -/
theorem computeTag_congr {b b' : Block} (hmk : b.macKey = b'.macKey) (had : b.ad = b'.ad) (ct : List Byte) :
    computeTag b ct = computeTag b' ct := by
  simp only [computeTag, hmk, had]

section Finalize
variable {s t : State}

/-- In both modes FINALIZE writes Apply of MSG to its output window (R197, R205). -/
theorem finalizeEffect_hmem (s : State) : (finalizeEffect s).hmem =
    memWrite s.hmem (finalizeOperand s.block).start (applyKeystream s.block s.block.msg) := by
  obtain ⟨-, h⟩ | ⟨-, h⟩ := finalizeEffect_cases s
  · rw [h, decryptPath_hmem]
  · rw [h, encryptPath_hmem]

/-- The output window of FINALIZE reads back as Apply of MSG. -/
theorem finalizeEffect_output (hwf : Memory.wf s.hmem = true) :
    (memRead (finalizeEffect s).hmem (finalizeOperand s.block).start s.block.msg.length).toList =
      applyKeystream s.block s.block.msg := by
  rw [finalizeEffect_hmem, ← applyKeystream_length s.block s.block.msg]
  exact memRead_memWrite hwf _ _

/-- A FINALIZE that encrypts leaves the ciphertext in its output window and the ciphertext's tag in TAG_OUT (R195). -/
theorem exec_finalize_encrypt_output (hwf : Memory.wf s.hmem = true) (hmode : s.block.tagInSet = false)
    (hexec : exec .finalize s = .next t) (hok : t.block.lastErr = .ok) :
    (memRead t.hmem (finalizeOperand s.block).start s.block.msg.length).toList = applyKeystream s.block s.block.msg ∧
    t.block.tagOut = computeTag s.block (applyKeystream s.block s.block.msg) := by
  obtain ⟨-, rfl⟩ := exec_ok hexec hok
  exact ⟨finalizeEffect_output hwf, by simp [effectOf, hmode]⟩

/-- A FINALIZE in OPEN whose output is in range and whose TAG_IN is the tag of its MSG passes the release gate, and its output
window holds Apply of MSG (R200). -/
theorem exec_finalize_of_matching_tag (hwf : Memory.wf s.hmem = true) (ho : s.block.phase = .opened)
    (hw : (finalizeOperand s.block).wFails = false) (hh : (finalizeOperand s.block).hFails s.params.hmemSize = false)
    (htag : s.block.tagIn = computeTag s.block s.block.msg) :
    ∃ v, exec .finalize s = .next v ∧ v.block.lastErr = .ok ∧
      (memRead v.hmem (finalizeOperand s.block).start s.block.msg.length).toList =
        applyKeystream s.block s.block.msg := by
  have hacc : tagAccumulator s.block = 0 := by rw [tagAccumulator, htag, comparator_self]
  have hpass : firstFailed (checksOf .finalize s) = none := finalizeChecks_pass.2 ⟨ho, hw, hh, fun _ => hacc⟩
  exact ⟨_, exec_of_pass hpass, rfl, finalizeEffect_output hwf⟩

end Finalize

section FinalizeOperand
variable (b : Block)

/-- The W-check of FINALIZE on its ARG registers; its length is MSG_LEN, which is never negative (R72, R106). -/
theorem finalizeOperand_wFails : (finalizeOperand b).wFails = true ↔
    (b.arg[2]).toInt < 0 ∨ (b.arg[2]).toInt + b.msg.length > (b.arg[1]).toNat :=
  (Descriptor.wFails_iff _).trans (or_congr_right (or_iff_right (Int.natCast_nonneg b.msg.length).not_gt))

/-- The H-check of FINALIZE on its ARG registers (R106). -/
theorem finalizeOperand_hFails (size : Nat) : (finalizeOperand b).hFails size = true ↔
    (b.arg[0]).toNat + (b.arg[1]).toNat > size :=
  Descriptor.hFails_iff _ _

end FinalizeOperand

/-- Settles O53: the receiver's MSG is Apply of the plaintext, its tag over MSG is the sender's, and Apply undoes itself. -/
theorem decryptAcceptsWhatEncryptProduced : Obligations.DecryptAcceptsWhatEncryptProduced := by
  intro s t u hs hu hmode hexec hok ho _ hkey hnonce hmk had hmsg htag hoff hsum hrange
  obtain ⟨hct, htagOut⟩ := exec_finalize_encrypt_output hs hmode hexec hok
  have hmsgU : u.block.msg = applyKeystream s.block s.block.msg := hmsg.trans hct
  have hlen : u.block.msg.length = s.block.msg.length := by rw [hmsgU, applyKeystream_length]
  have htagU : u.block.tagIn = computeTag u.block u.block.msg := by
    rw [htag, htagOut, hmsgU, computeTag_congr hmk had]
  have hplain : applyKeystream u.block u.block.msg = s.block.msg := by
    rw [hmsgU, applyKeystream_congr hkey hnonce, applyIsAnInvolution s.block s.block.msg]
  have hw : (finalizeOperand u.block).wFails = false := by
    rw [Bool.eq_false_iff, Ne, finalizeOperand_wFails, hlen]
    omega
  have hh : (finalizeOperand u.block).hFails u.params.hmemSize = false := by
    rw [Bool.eq_false_iff, Ne, finalizeOperand_hFails]
    omega
  have hout := exec_finalize_of_matching_tag hu ho hw hh htagU
  rwa [hplain, hlen] at hout

end Sys2Proof.Machine
end

section
/-! PROOFS. SET_TAG, FINALIZE and GET_TAG (spec/43_finalize.md R191 to R211): O22, O23, O24, O25, O26, O38, O39, O41, O49. -/

namespace Sys2Proof.Machine

/-! ## The comparator -/

/-- A bit of an OR over bytes is set where it is set in the start value or in one of the bytes. -/
theorem foldl_or_getLsbD (l : List Byte) (a : Byte) (j : Nat) :
    (l.foldl (· ||| ·) a).getLsbD j = true ↔ a.getLsbD j = true ∨ ∃ b ∈ l, b.getLsbD j = true := by
  induction l generalizing a with
  | nil => simp
  | cons b l ih => simp [ih, or_assoc]

section Comparator
variable (t tagIn : Vector Byte 16)

/-- The accumulator collects the differing bits of all byte pairs (R201). -/
theorem comparator_getLsbD (j : Nat) :
    (comparator t tagIn).getLsbD j = true ↔ ∃ i : Fin 16, (t[i] ^^^ tagIn[i]).getLsbD j = true := by
  simp [comparator, foldl_or_getLsbD, List.mem_iff_getElem, Fin.exists_iff]

/-- The accumulator is 0 for equal tags alone (R201). -/
theorem comparator_eq_zero_iff : comparator t tagIn = 0 ↔ t = tagIn := by
  constructor
  · intro hzero
    refine Vector.ext fun i hi => BitVec.eq_of_getLsbD_eq fun j _ => ?_
    have hbit : ¬(t[i] ^^^ tagIn[i]).getLsbD j = true := fun hset => by
      have hacc := (comparator_getLsbD t tagIn j).2 ⟨⟨i, hi⟩, hset⟩
      simp [hzero] at hacc
    simpa using hbit
  · rintro rfl
    exact comparator_self t

end Comparator

/-- Settles O49: the accumulator's bits, and its zero. -/
theorem comparatorMatchesExactly : Obligations.ComparatorMatchesExactly := fun t tagIn =>
  ⟨comparator_getLsbD t tagIn, comparator_eq_zero_iff t tagIn⟩

/-! ## The checks of the three commands -/

/-- A command that begins with the DEAD check is turned away in DEAD (R238). -/
theorem exec_of_dead {i : Instr} {s : State} {cs : List Check} (hcs : checksOf i s = deadCheck s.block :: cs)
    (hdead : s.block.phase = .dead) : exec i s = .next (s.setLastErr .useAfterDispose) :=
  exec_of_fail (by simp [hcs, firstFailed_cons, deadCheck, hdead])

/-- A command that begins with the two phase checks is turned away in FINAL (R211). -/
theorem exec_of_final {i : Instr} {s : State} {cs : List Check}
    (hcs : checksOf i s = deadCheck s.block :: finalCheck s.block :: cs) (hfinal : s.block.phase = .finalized) :
    exec i s = .next (s.setLastErr .invalidState) :=
  exec_of_fail (by simp [hcs, firstFailed_cons, deadCheck, finalCheck, hfinal])

/-- The H-check of SET_TAG on its ARG registers (R106). -/
theorem setTagOperand_hFails (b : Block) (size : Nat) : (setTagOperand b).hFails size = true ↔
    (b.arg[0]).toNat + (b.arg[1]).toNat > size :=
  Descriptor.hFails_iff _ _

/-- In OPEN the tag size is checked before the range (R191). -/
theorem firstFailed_setTagChecks {s : State} (ho : s.block.phase = .opened) : firstFailed (setTagChecks s) =
    if (s.block.arg[1]).toNat ≠ 16 then some .invalidTagSize
    else if (s.block.arg[0]).toNat + (s.block.arg[1]).toNat > s.params.hmemSize then some .invalidRange
    else none := by
  simp only [setTagChecks, firstFailed_cons, firstFailed_nil, deadCheck, finalCheck, Descriptor.hCheck, ho,
    setTagOperand_hFails, decide_eq_true_eq]
  rfl

/-- Settles O22: the phase checks head the list, and in OPEN the size and then the range decide. -/
theorem setTagRule : Obligations.SetTagRule := by
  refine ⟨decode_word_setTag, fun s => ⟨exec_of_dead rfl, exec_of_final rfl, fun ho hsize => ?_,
    fun ho hsize hrange => ?_, fun ho hsize hrange => ?_⟩⟩
  · exact exec_of_fail ((firstFailed_setTagChecks ho).trans (if_pos hsize))
  · have hchecks := (firstFailed_setTagChecks ho).trans (if_neg (not_not.2 hsize))
    exact exec_of_fail (hchecks.trans (if_pos (by omega)))
  · have hchecks := (firstFailed_setTagChecks ho).trans (if_neg (not_not.2 hsize))
    have hpass : firstFailed (checksOf .setTag s) = none := hchecks.trans (if_neg (by omega))
    rw [exec_of_pass hpass]
    rfl

/-- The release gate is one check in decrypt mode and none in encrypt mode (R203). -/
theorem firstFailed_releaseGate (b : Block) : firstFailed (releaseGate b) =
    if b.tagInSet = true ∧ tagAccumulator b ≠ 0 then some .tagMismatch else none := by
  cases h : b.tagInSet <;> simp [releaseGate, firstFailed_cons, h]

/-- In OPEN the range is checked before the tag; the W-check and the H-check share one code (R193, R257). -/
theorem firstFailed_finalizeChecks {s : State} (ho : s.block.phase = .opened) : firstFailed (finalizeChecks s) =
    if (s.block.arg[2]).toInt < 0 ∨ (s.block.arg[2]).toInt + s.block.msg.length > (s.block.arg[1]).toNat ∨
        (s.block.arg[0]).toNat + (s.block.arg[1]).toNat > s.params.hmemSize then some .invalidRange
    else if s.block.tagInSet = true ∧ tagAccumulator s.block ≠ 0 then some .tagMismatch
    else none := by
  simp [finalizeChecks, firstFailed_cons, deadCheck, finalCheck, Descriptor.wCheck, Descriptor.hCheck, ho,
    finalizeOperand_wFails, finalizeOperand_hFails, firstFailed_releaseGate, ite_or]

/-- Settles O23: the phase checks head the list; in OPEN the range and then the release gate decide, and a FINALIZE that passes
takes the path of its mode. -/
theorem finalizeRule : Obligations.FinalizeRule := by
  refine ⟨decode_word_finalize, fun s => ⟨exec_of_dead rfl, exec_of_final rfl, fun ho hrange => ?_,
    fun ho hrange hmode => ?_, fun ho hrange hmode hacc => ?_, fun ho hrange hmode hacc => ?_⟩⟩
  · exact exec_of_fail ((firstFailed_finalizeChecks ho).trans (if_pos hrange))
  · have hgate := (firstFailed_finalizeChecks ho).trans (if_neg hrange)
    have hpass : firstFailed (checksOf .finalize s) = none := hgate.trans (if_neg (by simp [hmode]))
    rw [exec_of_pass hpass, effectOf, finalizeEffect_of_encrypt hmode]
    rfl
  · have hgate := (firstFailed_finalizeChecks ho).trans (if_neg hrange)
    exact exec_of_fail (hgate.trans (if_pos ⟨hmode, hacc⟩))
  · have hgate := (firstFailed_finalizeChecks ho).trans (if_neg hrange)
    have hpass : firstFailed (checksOf .finalize s) = none := hgate.trans (if_neg fun hfails => hfails.2 hacc)
    rw [exec_of_pass hpass, effectOf, finalizeEffect_of_decrypt hmode]
    rfl

section GetTagOperand
variable (b : Block)

/-- The W-check of GET_TAG on its ARG registers; its length is 16 (R72, R106). -/
theorem getTagOperand_wFails : (getTagOperand b).wFails = true ↔
    (b.arg[2]).toInt < 0 ∨ (b.arg[2]).toInt + 16 > (b.arg[1]).toNat :=
  (Descriptor.wFails_iff _).trans (or_congr_right (or_iff_right (Int.natCast_nonneg 16).not_gt))

/-- The H-check of GET_TAG on its ARG registers (R106). -/
theorem getTagOperand_hFails (size : Nat) : (getTagOperand b).hFails size = true ↔
    (b.arg[0]).toNat + (b.arg[1]).toNat > size :=
  Descriptor.hFails_iff _ _

end GetTagOperand

/-- Outside DEAD a retrievable tag is asked for before the range (R210). -/
theorem firstFailed_getTagChecks {s : State} (halive : s.block.phase ≠ .dead) : firstFailed (getTagChecks s) =
    if s.block.tagOutValid = false then some .invalidState
    else if (s.block.arg[2]).toInt < 0 ∨ (s.block.arg[2]).toInt + 16 > (s.block.arg[1]).toNat ∨
        (s.block.arg[0]).toNat + (s.block.arg[1]).toNat > s.params.hmemSize then some .invalidRange
    else none := by
  simp [getTagChecks, firstFailed_cons, deadCheck, Descriptor.wCheck, Descriptor.hCheck, halive,
    getTagOperand_wFails, getTagOperand_hFails, ite_or]

/-- Settles O25: the DEAD check heads the list, then TAG_OUT_VALID and then the range decide. -/
theorem getTagRule : Obligations.GetTagRule := by
  refine ⟨decode_word_getTag, fun s => ⟨exec_of_dead rfl, fun halive hnone => ?_, fun halive hvalid hrange => ?_,
    fun halive hvalid hrange => ?_⟩⟩
  · exact exec_of_fail ((firstFailed_getTagChecks halive).trans (if_pos hnone))
  · have hchecks := (firstFailed_getTagChecks halive).trans (if_neg (by simp [hvalid]))
    exact exec_of_fail (hchecks.trans (if_pos hrange))
  · have hchecks := (firstFailed_getTagChecks halive).trans (if_neg (by simp [hvalid]))
    exact exec_of_pass (hchecks.trans (if_neg hrange))

/-! ## FINAL -/

/-- INIT has no check of the phase (R130). -/
theorem initChecks_code_ne_invalidState (s : State) : ∀ c ∈ initChecks s, c.code ≠ .invalidState := by
  simp [initChecks, Descriptor.hCheck]

/-- Settles O41: the phase checks head the lists of the four commands, and no check that the others can fail in FINAL carries
InvalidState. -/
theorem finalPhaseAcceptsNoMoreInput : Obligations.FinalPhaseAcceptsNoMoreInput := by
  intro i s hfinal
  have halive : s.block.phase ≠ .dead := by simp [hfinal]
  refine ⟨?_, ?_, ?_⟩
  · rintro (rfl | rfl | rfl | rfl) <;> exact exec_of_final rfl hfinal
  · rintro (rfl | rfl)
    · exact ⟨_, exec_of_pass (resetChecks_pass.2 halive), rfl⟩
    · exact ⟨_, exec_of_pass firstFailed_nil, rfl⟩
  · rintro (rfl | ⟨rfl, hvalid⟩)
    · refine exec_answers (fun e hf => ?_) fun _ => by simp
      obtain ⟨c, hc, -, rfl⟩ := firstFailed_some hf
      exact initChecks_code_ne_invalidState s c hc
    · have hchecks := (firstFailed_getTagChecks halive).trans (if_neg (by simp [hvalid]))
      refine exec_answers (fun e hf => ?_) fun _ => by simp
      rintro rfl
      have hcode := hchecks.symm.trans hf
      split at hcode <;> cases hcode

/-! ## The release gate -/

/-- Settles O38: TAG_IN is not the tag, so the gate fails; no check reads LAST_ERR, so it fails again. -/
theorem tagMismatchKeepsEverything : Obligations.TagMismatchKeepsEverything := by
  intro s T ho hoff hsum hrange hmode hne
  have hacc : tagAccumulator s.block ≠ 0 := (comparator_eq_zero_iff T s.block.tagIn).not.2 hne
  have hfail : firstFailed (checksOf .finalize s) = some .tagMismatch :=
    ((firstFailed_finalizeChecks ho).trans (if_neg (by omega))).trans (if_pos ⟨hmode, hacc⟩)
  exact ⟨exec_of_fail hfail, exec_of_fail (s := s.setLastErr .tagMismatch) hfail⟩

/-- Settles O39: a raise leaves host memory, and a decrypt FINALIZE that passes has passed the gate. -/
theorem noPlaintextBeforeTheTagMatches : Obligations.NoPlaintextBeforeTheTagMatches := by
  intro s rest hq hmode
  rw [step_command_encode (i := .finalize) hq]
  refine exec_answers (fun _ _ => ?_) fun hpass _ => ?_
  · rintro ⟨x, hx⟩
    exact absurd rfl hx
  · obtain ⟨-, -, -, hgate⟩ := finalizeChecks_pass.1 hpass
    exact hgate hmode

/-! ## What reaches host memory -/

/-- Settles O24: a raise leaves host memory, and the effect on it is one `MemWrite` of Apply of MSG. -/
theorem finalizeOutputIsAllOrNothing : Obligations.FinalizeOutputIsAllOrNothing := by
  intro s hwf start
  refine exec_answers (fun _ hf => ⟨fun hok => absurd hok (ne_ok_of_firstFailed hf), fun _ => rfl⟩) fun _ =>
    ⟨fun _ => ?_, fun hne => absurd rfl hne⟩
  have hmem : (effectOf .finalize s).hmem = memWrite s.hmem start (applyKeystream s.block s.block.msg) :=
    finalizeEffect_hmem s
  rw [State.setLastErr_hmem, hmem]
  refine ⟨fun j hj => ?_, fun x hx => memWrite_read_outside hwf (by rwa [applyKeystream_length])⟩
  rw [memWrite_read_inside hwf (by rwa [applyKeystream_length]), applyKeystream_getElem _ _ _ hj]

/-- Settles O26: a raise writes LAST_ERR alone, and the effect is one `MemWrite` of TAG_OUT. -/
theorem getTagWritesSixteenBytes : Obligations.GetTagWritesSixteenBytes := by
  intro s hwf start
  have hlen : s.block.tagOut.toList.length = 16 := Vector.length_toList
  refine exec_answers
    (fun _ hf => ⟨fun hok => absurd hok (ne_ok_of_firstFailed hf), fun hok => absurd hok (ne_ok_of_firstFailed hf),
      fun _ => rfl, rfl⟩)
    fun _ => ⟨fun _ j => ?_, fun _ x hx => memWrite_read_outside hwf (by rwa [hlen]), fun hne => absurd rfl hne, rfl⟩
  have hin := memWrite_read_inside hwf (addr := start) (hlen.symm ▸ j.isLt : j.val < s.block.tagOut.toList.length)
  rwa [Vector.getElem_toList] at hin

end Sys2Proof.Machine
end

section
/-! PROOFS. RESET and DISPOSE (spec/44_reset_dispose.md R230 to R238): O27, O28, O40, O57. -/

namespace Sys2Proof.Machine

/-! ## RESET and the reuse of the keystream -/

/-- Outside DEAD, RESET has its effect (R230). -/
theorem exec_reset_of_alive {s : State} (halive : s.block.phase ≠ .dead) :
    exec .reset s = .next ((resetEffect s).setLastErr .ok) :=
  exec_of_pass (i := .reset) (resetChecks_pass.2 halive)

/-- Two strings under one keystream differ as they do in the clear (R176, R232). -/
theorem zipWith_xor_applyKeystream (b : Block) (m m' : List Byte) :
    List.zipWith (· ^^^ ·) (applyKeystream b m) (applyKeystream b m') = List.zipWith (· ^^^ ·) m m' := by
  refine List.ext_getElem (by simp) fun i _ hi => ?_
  obtain ⟨hm, hm'⟩ : i < m.length ∧ i < m'.length := by simpa using hi
  rw [List.getElem_zipWith, List.getElem_zipWith, applyKeystream_getElem b m i hm, applyKeystream_getElem b m' i hm']
  generalize Config.keystreamByte b.key b.nonce 1 i = k
  calc m[i] ^^^ k ^^^ (m'[i] ^^^ k)
    _ = m[i] ^^^ m'[i] ^^^ (k ^^^ k) := by ac_rfl
    _ = m[i] ^^^ m'[i] := by rw [BitVec.xor_self, BitVec.xor_zero]

/-- Settles O57: RESET keeps KEY, NONCE and MK, and Apply reads nothing else of the block. -/
theorem resetReusesTheKeystream : Obligations.ResetReusesTheKeystream := by
  refine fun s halive => ⟨_, exec_reset_of_alive halive, rfl, fun m m' _ => ?_⟩
  have hsame : applyKeystream ((resetEffect s).setLastErr .ok).block m' = applyKeystream s.block m' :=
    applyKeystream_congr rfl rfl m'
  rw [hsame, zipWith_xor_applyKeystream]

/-- Settles O27: RESET's one check is the DEAD check. -/
theorem resetRule : Obligations.ResetRule :=
  ⟨decode_word_reset, fun _ => ⟨exec_of_dead rfl, exec_reset_of_alive⟩⟩

/-! ## DISPOSE -/

/-- DISPOSE has no check (R235, R237). -/
theorem exec_dispose (s : State) : exec .dispose s = .next ((disposeEffect s).setLastErr .ok) :=
  exec_of_pass (i := .dispose) firstFailed_nil

/-- In DEAD, DISPOSE reports OK and does nothing else (R237). -/
theorem exec_dispose_of_dead {s : State} (hdead : s.block.phase = .dead) :
    exec .dispose s = .next (s.setLastErr .ok) := by
  rw [exec_dispose, disposeEffect_of_dead hdead]

/-- Settles O28: DISPOSE raises nothing, and its effect is empty in DEAD and zeroizes elsewhere. -/
theorem disposeRule : Obligations.DisposeRule := by
  refine ⟨decode_word_dispose, fun s => ⟨exec_dispose_of_dead, fun halive => ?_⟩⟩
  rw [exec_dispose, disposeEffect_of_alive halive]
  rfl

/-! ## DEAD -/

/-- Every command but INIT and DISPOSE begins with the DEAD check (R238). -/
theorem checksOf_eq_deadCheck_cons {i : Instr} (hinit : i ≠ .init) (hdispose : i ≠ .dispose) (s : State) :
    ∃ cs, checksOf i s = deadCheck s.block :: cs := by
  cases i with
  | init => exact absurd rfl hinit
  | dispose => exact absurd rfl hdispose
  | updateByte | updateBlock | setTag | finalize | getTag | reset => exact ⟨_, rfl⟩

/-- INIT has no DEAD check (R130). -/
theorem initChecks_code_ne_useAfterDispose (s : State) : ∀ c ∈ initChecks s, c.code ≠ .useAfterDispose := by
  simp [initChecks, Descriptor.hCheck]

/-- Settles O40: the DEAD check turns away the six commands it heads, DISPOSE has no check, and none of INIT's carries
UseAfterDispose. -/
theorem deadEngineRunsOnlyInitAndDispose : Obligations.DeadEngineRunsOnlyInitAndDispose := by
  refine fun i s hdead => ⟨fun hinit hdispose => ?_, exec_dispose_of_dead hdead, ?_⟩
  · obtain ⟨cs, hcs⟩ := checksOf_eq_deadCheck_cons hinit hdispose s
    exact exec_of_dead hcs hdead
  · refine exec_answers (fun e hf => ?_) fun _ => by simp
    obtain ⟨c, hc, -, rfl⟩ := firstFailed_some hf
    exact initChecks_code_ne_useAfterDispose s c hc

end Sys2Proof.Machine
end

section
/-! PROOFS. Errors and their codes, and the instances of a platform (spec/60_exceptions.md R250 to R264): O10, O12, O34, O35, O36,
O37, O59. -/

namespace Sys2Proof.Machine

/-- Settles O10: the number of a code is its place in R250's table, which `ResultCode.ofNat` reads back. -/
theorem resultCodesAreDistinct : Obligations.ResultCodesAreDistinct :=
  Function.LeftInverse.injective (g := fun c => ResultCode.ofNat c.toNat) fun e => by cases e <;> rfl

/-! ## The code a command reports -/

/-- The code a command reports: that of its first failing check, and OK where none fails (R254). -/
def reported (i : Instr) (s : State) : ResultCode := (firstFailed (checksOf i s)).getD .ok

/-- LAST_ERR after a command is the code the command reports. -/
theorem exec_reports (i : Instr) (s : State) : ∃ t, exec i s = .next t ∧ t.block.lastErr = reported i s :=
  exec_answers (fun e hf => by simp [reported, hf]) fun hpass => by simp [reported, hpass]

/-! ## Where the machine stops -/

/-- The outcomes of one host action: it answers, or it is a CSR access outside R45, or a store that leaves host memory (R264). -/
theorem hostAction_cases (a : HostAction) (s : State) :
    (∃ t, hostAction a s = .next t) ∨
    (∃ c, a = .csr c ∧ c.wf = false ∧ hostAction a s = .refused .csrAccessNotAligned32) ∨
    (∃ addr bytes, a = .hmemStore addr bytes ∧ addr + bytes.length > s.params.hmemSize ∧
      hostAction a s = .fault .hostStoreOutsideHmem) := by
  cases a with
  | csr c =>
    cases hw : c.wf with
    | true => exact .inl (csrAccess_answers hw s)
    | false => exact .inr (.inl ⟨c, rfl, hw, csrAccess_of_not_wf hw⟩)
  | hmemStore addr bytes =>
    by_cases hin : addr + bytes.length ≤ s.params.hmemSize
    · exact .inl ⟨_, hostStore_inside hin⟩
    · exact .inr (.inr ⟨addr, bytes, rfl, not_le.1 hin, hostStore_outside hin⟩)
  | assertReset => exact .inl ⟨_, rfl⟩

/-- The outcomes of a step: an idle one answers, and otherwise they are those of the oldest action. -/
theorem step_cases (s : State) :
    (∃ t, step s = .next t) ∨
    (∃ c rest, s.pending = .csr c :: rest ∧ c.wf = false ∧ step s = .refused .csrAccessNotAligned32) ∨
    (∃ addr bytes rest, s.pending = .hmemStore addr bytes :: rest ∧ addr + bytes.length > s.params.hmemSize ∧
      step s = .fault .hostStoreOutsideHmem) := by
  cases hq : s.pending with
  | nil => exact .inl ⟨s, step_nil hq⟩
  | cons a rest =>
    rw [step_cons hq]
    obtain hnext | ⟨c, rfl, hw, ho⟩ | ⟨addr, bytes, rfl, hout, ho⟩ := hostAction_cases a { s with pending := rest }
    · exact .inl hnext
    · exact .inr (.inl ⟨c, rest, rfl, hw, ho⟩)
    · exact .inr (.inr ⟨addr, bytes, rest, rfl, hout, ho⟩)

/-- Settles O12: a command only ever raises or has its effect, and a step has one of the three outcomes of its action. -/
theorem onlyTheHostCanStopTheMachine : Obligations.OnlyTheHostCanStopTheMachine := by
  refine ⟨fun i s => (exec_reports i s).imp fun _ => And.left, fun s r h => ?_, fun s r h => ?_⟩
  · obtain ⟨_, ho⟩ | ⟨c, rest, hq, hw, ho⟩ | ⟨_, _, _, _, _, ho⟩ := step_cases s <;> cases h.symm.trans ho
    exact ⟨c, rest, hq, hw, rfl⟩
  · obtain ⟨_, ho⟩ | ⟨_, _, _, _, ho⟩ | ⟨addr, bytes, rest, hq, hout, ho⟩ := step_cases s <;> cases h.symm.trans ho
    exact ⟨addr, bytes, rest, hq, hout⟩

/-! ## Raising -/

/-- Settles O34: a word that is no command and a failing check both write LAST_ERR alone; an effect ends with OK. -/
theorem errorsArePrecise : Obligations.ErrorsArePrecise := by
  intro s w rest hq
  rw [step_command hq]
  cases hd : decode w with
  | error e => exact ⟨_, runCommandWord_of_error hd, fun _ => rfl⟩
  | ok i =>
    rw [runCommandWord_of_decode hd]
    exact exec_answers (fun _ _ _ => rfl) fun _ hne => absurd rfl hne

/-! ## Between commands -/

/-- A host action leaves the queue of the actions after it alone. -/
theorem HostMove.pending_eq {s t : State} (h : HostMove s t) : t.pending = s.pending := by
  cases h with
  | ran i _ => simp
  | returned | ignored | argWritten | raised | stored | wasReset => rfl

/-- A write that is not to CMD leaves the block, LAST_ERR with it, but for an ARG register (R43). -/
theorem csrWrite_keepsBlock {r : CsrReg} {w : Word} {s t : State} (hr : r ≠ .cmd) (h : csrWrite r w s = .next t) :
    t.block = { s.block with arg := t.block.arg } := by
  cases r with
  | cmd => exact absurd rfl hr
  | status | arg | reserved => cases h; rfl

/-- A quiet action leaves the block, LAST_ERR with it, but for an ARG register (R79, R80, R254). -/
theorem hostAction_quiet_keepsBlock {a : HostAction} {s t : State} (ha : a.quiet = true)
    (h : hostAction a s = .next t) : t.block = { s.block with arg := t.block.arg } := by
  cases a with
  | assertReset => cases ha
  | hmemStore addr bytes =>
    rw [hostAction, hostStore] at h
    split at h <;> cases h
    rfl
  | csr a =>
    obtain ⟨dir, off, size⟩ := a
    rw [hostAction, csrAccess] at h
    split at h
    · cases dir with
      | read => cases h; rfl
      | write w => exact csrWrite_keepsBlock (by simpa [HostAction.quiet] using ha) h
    · cases h

/-- Settles O36: the block by the quiet actions' frame, the parameters and the queue by the frame of every host action. -/
theorem lastErrKeptUntilNextCommand : Obligations.LastErrKeptUntilNextCommand := by
  intro s a rest t hq ha hstep
  rw [step_cons hq] at hstep
  have hmove := hostAction_move hstep
  have hblock := hostAction_quiet_keepsBlock ha hstep
  exact ⟨hblock, hmove.params_eq, hmove.pending_eq⟩

/-! ## The order of FINALIZE's checks -/

/-- A list of checks reports its first part's code before its second part's (R256). -/
theorem firstFailed_append (cs ds : List Check) :
    firstFailed (cs ++ ds) = (firstFailed cs).or (firstFailed ds) := by
  induction cs with
  | nil => rfl
  | cons c cs ih => by_cases hc : c.fails <;> simp [firstFailed_cons, hc, ih]

/-- FINALIZE's checks before the release gate: phase and range (R193, R257). -/
def formChecks (s : State) : List Check :=
  [deadCheck s.block, finalCheck s.block, (finalizeOperand s.block).wCheck,
    (finalizeOperand s.block).hCheck s.params.hmemSize]

/-- FINALIZE checks the form of the call, and then the tag (R193, R257). -/
theorem firstFailed_finalizeChecks_eq_or (s : State) :
    firstFailed (finalizeChecks s) = (firstFailed (formChecks s)).or (firstFailed (releaseGate s.block)) :=
  firstFailed_append (formChecks s) (releaseGate s.block)

/-- FINALIZE reports another code than TagMismatch exactly when it is malformed: the tag comes last (R257). -/
theorem firstFailed_finalizeChecks_iff {s : State} {e : ResultCode} (he : e ≠ .tagMismatch) :
    firstFailed (finalizeChecks s) = some e ↔ firstFailed (formChecks s) = some e := by
  have hgate : firstFailed (releaseGate s.block) ≠ some e := by
    rw [firstFailed_releaseGate]
    split <;> simp [he.symm]
  simp [firstFailed_finalizeChecks_eq_or, Option.or_eq_some_iff, hgate]

/-- Settles O37: the checks that turned FINALIZE away do not read TAG_IN. -/
theorem malformedFinalizeHidesTheTag : Obligations.MalformedFinalizeHidesTheTag := by
  intro s tag t hexec hok htag
  obtain ⟨e, hf, ho⟩ | ⟨-, ho⟩ := exec_cases hexec
  · cases ho
    have hform : firstFailed (formChecks s) = some e := (firstFailed_finalizeChecks_iff htag).1 hf
    exact exec_of_fail (i := .finalize) ((firstFailed_finalizeChecks_iff htag).2 hform)
  · cases ho
    exact absurd rfl hok

/-! ## The matrix of codes -/

theorem exists_exec_iff_exists_reported (i : Instr) (e : ResultCode) :
    (∃ s t, exec i s = .next t ∧ t.block.lastErr = e) ↔ ∃ s, reported i s = e := by
  refine exists_congr fun s => ?_
  obtain ⟨t, ht, hcode⟩ := exec_reports i s
  simp [ht, hcode]

theorem ok_mem_canReport (i : Instr) : .ok ∈ canReport i := by
  cases i <;> decide

/-- FINALIZE alone checks a tag (R253). -/
theorem tagMismatch_mem_canReport_iff {i : Instr} : .tagMismatch ∈ canReport i ↔ i = .finalize := by
  cases i <;> decide

/-- The checks of a command carry codes of its row of the matrix. -/
theorem checksOf_code_mem_canReport (i : Instr) (s : State) : ∀ c ∈ checksOf i s, c.code ∈ canReport i := by
  cases i with
  | init => simp [checksOf, initChecks, canReport, Descriptor.hCheck]
  | updateByte => simp [checksOf, updateByteChecks, canReport, deadCheck, finalCheck, capacityCheck]
  | updateBlock =>
    simp [checksOf, updateBlockChecks, canReport, deadCheck, finalCheck, capacityCheck, Descriptor.wCheck,
      Descriptor.hCheck]
  | setTag => simp [checksOf, setTagChecks, canReport, deadCheck, finalCheck, Descriptor.hCheck]
  | finalize =>
    cases hmode : s.block.tagInSet <;>
      simp [checksOf, finalizeChecks, canReport, deadCheck, finalCheck, Descriptor.wCheck, Descriptor.hCheck,
        releaseGate, hmode]
  | getTag => simp [checksOf, getTagChecks, canReport, deadCheck, Descriptor.wCheck, Descriptor.hCheck]
  | reset => simp [checksOf, canReport, deadCheck]
  | dispose => simp [checksOf]

/-- A command reports a code of its row only. -/
theorem reported_mem_canReport (i : Instr) (s : State) : reported i s ∈ canReport i := by
  cases hf : firstFailed (checksOf i s) with
  | none => simpa [reported, hf] using ok_mem_canReport i
  | some e =>
    obtain ⟨c, hc, -, rfl⟩ := firstFailed_some hf
    simpa [reported, hf] using checksOf_code_mem_canReport i s c hc

/-- ARG0, ARG1, … with which a command reports a code in a host memory of 32 bytes; the phase codes take any. -/
def reportingArgs : Instr → ResultCode → List Word
  | .init, .ok => [0, 32, 0, 12, 0, 0, 20]
  | .init, .capacityExceeded => [0, 32, 0, 12, 0, 1, 20]
  | .init, .invalidRange => [1, 32, 0, 12, 0, 0, 20]
  | .init, .unsupportedParameter => [0, 32, 0, 12]
  | .init, .invalidNonceSize => [0, 32]
  | .updateBlock, .capacityExceeded => [0, 1, 0, 1]
  | .setTag, .ok => [0, 16]
  | .getTag, .ok => [0, 16]
  | _, .invalidRange => [32, 16]
  | _, _ => []

/-- The phase in which a command reports a code. -/
def reportingPhase : ResultCode → Phase
  | .useAfterDispose => .dead
  | .invalidState => .finalized
  | _ => .opened

/-- Room for one message byte, and for none where the code to report is CapacityExceeded; no room for associated data. -/
def reportingParams (e : ResultCode) : Config.Params :=
  { profile := .canon12, draftCtr64 := false, msgCap := if e = .capacityExceeded then 0 else 1, adCap := 0, hmemSize := 32 }

/-- A state in which a command reports a code of its row: encrypt mode but for TagMismatch, a retrievable tag but for
InvalidState. -/
def reportingState (i : Instr) (e : ResultCode) (tagIn : Vector Byte 16) : State :=
  { params := reportingParams e
    block :=
      { Block.powerOn (reportingParams e) with
        phase := reportingPhase e
        tagIn := tagIn
        tagInSet := decide (e = .tagMismatch)
        tagOutValid := decide (e ≠ .invalidState)
        arg := Vector.ofFn fun k => (reportingArgs i e).getD k 0 }
    hmem := []
    pending := []
    readData := none }

/-- Some string differs from a given tag. -/
theorem exists_tag_ne (T : Vector Byte 16) : ∃ tag, T ≠ tag := by
  refine ⟨T.set 0 (T[0] + 1), fun h => ?_⟩
  have hzero : T[0] = T[0] + 1 := by simpa using congrArg (fun v : Vector Byte 16 => v[0]) h
  simp at hzero

/-- FINALIZE reports TagMismatch with a wrong TAG_IN (R203). -/
theorem exists_reported_tagMismatch : ∃ s, reported .finalize s = .tagMismatch := by
  obtain ⟨tag, hne⟩ := exists_tag_ne (computeTag (reportingState .finalize .tagMismatch (zeros 16)).block [])
  have hacc : tagAccumulator (reportingState .finalize .tagMismatch tag).block ≠ 0 :=
    (comparator_eq_zero_iff _ _).not.2 hne
  have hform : firstFailed (formChecks (reportingState .finalize .tagMismatch tag)) = none := rfl
  have hgate : firstFailed (releaseGate (reportingState .finalize .tagMismatch tag).block) = some .tagMismatch :=
    (firstFailed_releaseGate _).trans (if_pos ⟨rfl, hacc⟩)
  refine ⟨reportingState .finalize .tagMismatch tag, ?_⟩
  simp [reported, checksOf, firstFailed_finalizeChecks_eq_or, hform, hgate]

/-- Every other code of a row is reported in its state of the table. -/
theorem reported_reportingState (i : Instr) :
    ∀ e ∈ canReport i, e ≠ .tagMismatch → reported i (reportingState i e (zeros 16)) = e := by
  cases i <;> decide

/-- Settles O35: a command's checks carry its row's codes, and each code of the row has a state that reports it. -/
theorem errorMatrix : Obligations.ErrorMatrix := by
  refine ⟨fun i e => ?_, fun _ _ _ => runCommandWord_of_error⟩
  rw [exists_exec_iff_exists_reported]
  refine ⟨fun he => ?_, fun ⟨s, hs⟩ => hs ▸ reported_mem_canReport i s⟩
  by_cases hmismatch : e = .tagMismatch
  · subst hmismatch
    obtain rfl := tagMismatch_mem_canReport_iff.1 he
    exact exists_reported_tagMismatch
  · exact ⟨_, reported_reportingState i e he hmismatch⟩

/-! ## Instances -/

/-- An action that answers puts the next state of the block it acts on back in that block's place (R262). -/
theorem Platform.act_next {p q : Platform} {k : Fin p.orchs.length} {a : HostAction} (h : p.act k a = .next q) :
    ∃ s, hostAction a (p.view p.orchs[k]) = .next s ∧ q = p.put k s := by
  unfold Platform.act at h
  split at h
  · exact ⟨_, ‹_›, by simpa using h.symm⟩
  · cases h
  · cases h

/-- Settles O59: the platform writes one place of its list. -/
theorem instancesShareNoState : Obligations.InstancesShareNoState := by
  intro p q k a h
  obtain ⟨s, hs, rfl⟩ := Platform.act_next h
  exact ⟨List.length_set, fun j hj => List.getElem?_set_ne hj.symm, s, hs, List.getElem?_set_self k.isLt, rfl⟩

end Sys2Proof.Machine
end

section
/-! PROOFS. The platform's reset (spec/70_reset_and_hazards.md R280): O16. -/

namespace Sys2Proof.Machine

/-- Assertion of the block's reset leaves the queue and takes place whatever the state; host memory stays (R280, log 12). -/
theorem step_assertReset {s : State} {rest : List HostAction} (h : s.pending = .assertReset :: rest) :
    step s = .next { s with pending := rest, block := Block.powerOn s.params } :=
  step_cons h

/-- Settles O16: the eight ARG registers listed are the power-on block's zero registers, and reset is power-on. -/
theorem powerOnValues : Obligations.PowerOnValues :=
  ⟨fun _ => rfl, rfl, fun _ _ => step_assertReset⟩

end Sys2Proof.Machine
end

section
/-! PROOFS. The byte view of a command word (spec/10_state.md R46): O3. -/

namespace Sys2Proof

/-- The bytes of a word decode as the word does (R46). -/
@[simp] theorem decodeBytes_bytesOfWord (w : Word) : decodeBytes (bytesOfWord w) = decode w :=
  congrArg decode (wordOfBytes_bytesOfWord w)

/-- Settles O3: the word and its bytes decode alike, and the word of a command decodes to it. -/
theorem encodedCommandDecodesToItself : Obligations.EncodedCommandDecodesToItself :=
  fun i _ => ⟨decode_encode i, (decodeBytes_bytesOfWord _).trans (decode_encode i)⟩

end Sys2Proof
end
